-- ==== Sys2Proof/Word.lean ====
section
/-! DEFINITION. The words the spec's registers hold. -/

namespace Sys2Proof

/-- A 32-bit register or instruction word: `EDECCR`, `OSECCR`, `EDESR` (10_state.md R10), an A64 word (R43). -/
abbrev Word := BitVec 32

/-- An address or another 64-bit environment register. PRESUMED width (unsafe), log 14: the source gives none. -/
abbrev Addr := BitVec 64

/-- A one-bit field (10_state.md R17). -/
abbrev Bit := BitVec 1

/-- An Exception level, EL0 to EL3 (10_state.md R19). -/
abbrev EL := Fin 4

end Sys2Proof
end

