-- ==== Sys2Proof/Syntax.lean ====
section
/-! DEFINITION. The operations of the component and the two instruction words (30_encoding.md R41, R43): one
constructor per row of the opcode table. -/

namespace Sys2Proof

/-- An operation of the component (R41) or one of the two A64 instructions the spec names (R43). -/
inductive Instr where
  /-- `OP_EXC_ENTRY` -/
  | opExcEntry
  /-- `OP_EXC_RETURN`, with the flag "the return was an illegal exception return" -/
  | opExcReturn (illegal : Bool)
  /-- `OP_RESET` -/
  | opReset
  /-- `OP_INSN_BOUNDARY` -/
  | opInsnBoundary
  /-- `OP_WRITE_EDECCR(v)` -/
  | opWriteEdeccr (v : Word)
  /-- `OP_WRITE_OSECCR(v)` -/
  | opWriteOseccr (v : Word)
  /-- `OP_WRITE_EDESR(v)`, of which only the `EC` bit is used -/
  | opWriteEdesr (v : Word)
  /-- `OP_READ_EDECCR` -/
  | opReadEdeccr
  /-- `OP_READ_OSECCR` -/
  | opReadOseccr
  /-- `OP_READ_EDESR` -/
  | opReadEdesr
  /-- `OP_EXIT_DEBUG` -/
  | opExitDebug
  /-- `OP_ISB` -/
  | opIsb
  /-- `OP_A32_STATE_CHANGE` -/
  | opA32StateChange
  /-- the A64 instruction `ERET` -/
  | eret
  /-- the A64 instruction `ISB` (`ISB SY`) -/
  | isb
deriving DecidableEq, Repr

end Sys2Proof
end

