-- ==== Sys2Proof/Decode.lean ====
section
/-! DEFINITION. From instruction words to instructions and back. The spec gives two words (30_encoding.md R43) and says
that the 13 operations of R41 have none (R40): they reach the machine as themselves, in State's `inbox`. -/

namespace Sys2Proof

/-- Why a word is not decoded. -/
inductive DecodeError where
  /-- The word is neither of R43's two: "two rows of a large instruction set that this spec does not cover". -/
  | notInSpec (w : Word)
deriving DecidableEq, Repr

/-- One row of the opcode table that has bits. -/
structure OpcodeRow where
  mask : Word
  pattern : Word
  instr : Instr
deriving DecidableEq, Repr

/-- The rows of opcode_table.json that have bits (R43). -/
def opcodeRows : List OpcodeRow :=
  [⟨0xFFFFFFFF#32, 0xD69F03E0#32, .eret⟩,
   ⟨0xFFFFFFFF#32, 0xD5033FDF#32, .isb⟩]

/-- The row's fixed bits stand in the word. -/
def OpcodeRow.fits (r : OpcodeRow) (w : Word) : Bool := w &&& r.mask == r.pattern

/-- The first row whose bits fit. -/
def decodeRows : List OpcodeRow → Word → Except DecodeError Instr
  | [], w => .error (.notInSpec w)
  | r :: rs, w => if r.fits w then .ok r.instr else decodeRows rs w

/-- The instruction of a word, total on all words. The whole word is given at once: the byte order of a fetch is not
in the source (20_memory.md R33, log 28). -/
def decode (w : Word) : Except DecodeError Instr := decodeRows opcodeRows w

/-- The word of an instruction, from the same table of R43; the operations of R41 have "no bit pattern". -/
def encode : Instr → Option Word
  | .opExcEntry => none
  | .opExcReturn _ => none
  | .opReset => none
  | .opInsnBoundary => none
  | .opWriteEdeccr _ => none
  | .opWriteOseccr _ => none
  | .opWriteEdesr _ => none
  | .opReadEdeccr => none
  | .opReadOseccr => none
  | .opReadEdesr => none
  | .opExitDebug => none
  | .opIsb => none
  | .opA32StateChange => none
  | .eret => some 0xD69F03E0#32
  | .isb => some 0xD5033FDF#32

/-- The one instruction word that the table's `nbits` bits `w` stand for: every bit above them is 0. -/
def tableWord (nbits w : Nat) : Word := BitVec.ofNat 32 (w % 2 ^ nbits)

/-- What `decode` reads from the table's bits. -/
def decodeTableWord (nbits w : Nat) : Option Instr :=
  match decode (tableWord nbits w) with
  | .ok i => some i
  | .error _ => none

end Sys2Proof
end

