-- ==== Sys2Proof/Config.lean ====
section
/-! DEFINITION. What is fixed for the life of the PE (00_scope.md R3 to R6), and the free values. -/

namespace Sys2Proof

/-- The Security states (10_state.md R19). -/
inductive SS where
  | secure
  | nonSecure
  | realm
  | root
deriving DecidableEq, Repr

/-- A pair (Security state, Exception level): what an entry goes to. -/
structure Level where
  ss : SS
  el : EL
deriving DecidableEq, Repr

/-- The kind of an entry to an Exception level (40_control.md). -/
inductive EntryKind where
  | entry
  | ret
  | reset
deriving DecidableEq, Repr

/-- The five well-formed feature configurations of 00_scope.md R4. The three combinations R4 refuses have no
constructor, see `Configuration.ofFeatures`. -/
inductive Configuration where
  | v8p0
  | v8p2
  | v8p2Rme
  | v8p8
  | v8p8Rme
deriving DecidableEq, Repr

/-- `HAVE_DEBUGV8P2` (R3, the table of R4). -/
def Configuration.haveDebugv8p2 : Configuration → Bool
  | .v8p0 => false
  | .v8p2 => true
  | .v8p2Rme => true
  | .v8p8 => true
  | .v8p8Rme => true

/-- `HAVE_DEBUGV8P8` (R3, the table of R4). -/
def Configuration.haveDebugv8p8 : Configuration → Bool
  | .v8p0 => false
  | .v8p2 => false
  | .v8p2Rme => false
  | .v8p8 => true
  | .v8p8Rme => true

/-- `HAVE_RME` (R3, the table of R4). -/
def Configuration.haveRme : Configuration → Bool
  | .v8p0 => false
  | .v8p2 => false
  | .v8p2Rme => true
  | .v8p8 => false
  | .v8p8Rme => true

/-- The configuration with the three features `FEAT_Debugv8p2`, `FEAT_Debugv8p8`, `FEAT_RME`; `none` for the three
combinations R4 refuses. -/
def Configuration.ofFeatures : Bool → Bool → Bool → Option Configuration
  | false, false, false => some .v8p0
  | true, false, false => some .v8p2
  | true, false, true => some .v8p2Rme
  | true, true, false => some .v8p8
  | true, true, true => some .v8p8Rme
  | false, true, false => none
  | false, false, true => none
  | false, true, true => none

/-- Whether Exception Catch is higher or lower priority than a step event (00_scope.md R5). -/
inductive Rank where
  | higher
  | lower
deriving DecidableEq, Repr

/-- `EC_WHEN_PROHIBITED` (41_generation.md R75). -/
inductive WhenProhibited where
  | ignore
  | ignoreOrPend
deriving DecidableEq, Repr

/-- The implementation's parameters. They are data, so that a statement over all states is a statement over all
implementations (log 3). -/
structure Params where
  /-- the feature configuration (R4) -/
  cfg : Configuration
  /-- `RESET_IS_EXCEPTION_CATCH` (R5) -/
  resetIsExceptionCatch : Bool
  /-- `EC_VS_SOFTWARE_STEP` (R5, R101) -/
  ecVsSoftwareStep : Rank
  /-- `EC_VS_HALTING_STEP` (R5, R101) -/
  ecVsHaltingStep : Rank
  /-- `EC_WHEN_PROHIBITED` (R75) -/
  ecWhenProhibited : WhenProhibited
  /-- `RETURN_EC_BEFORE_ASYNC_V8P2`, the assumed switch of 90_conflicts.md C4 (log 32) -/
  returnEcBeforeAsyncV8p2 : Bool
  /-- `IMPLEMENTED(ss, el)` (R6, R112) -/
  implemented : List Level
  /-- `EDECCR_RESET` (R26) -/
  edeccrReset : Word
  /-- `EDESR_EC_RESET` (R26) -/
  edesrEcReset : Bit
  /-- `RESET_SS` and `RESET_EL` (R26) -/
  resetLevel : Level
  /-- `RESET_PRESERVES_EDECCR` (R121) -/
  resetPreservesEdeccr : Bool
  /-- the position of `EC` in `EDESR`, which the source does not give (R17, log 7) -/
  edesrEcBit : Fin 32
deriving DecidableEq, Repr

/-- The parameters of `State.reset`: all three features, the usual values G15 and G4 record, `EC` at bit 3 (G9).
PRESUMED and DESIGN CHOICE (unsafe), log 3, log 7 and log 12: no statement rests on these values. -/
def Params.typical : Params where
  cfg := .v8p8Rme
  resetIsExceptionCatch := false
  ecVsSoftwareStep := .higher
  ecVsHaltingStep := .higher
  ecWhenProhibited := .ignore
  returnEcBeforeAsyncV8p2 := false
  implemented := [⟨.nonSecure, 0⟩, ⟨.nonSecure, 1⟩, ⟨.nonSecure, 2⟩, ⟨.secure, 0⟩, ⟨.secure, 1⟩,
    ⟨.secure, 2⟩, ⟨.realm, 0⟩, ⟨.realm, 1⟩, ⟨.realm, 2⟩, ⟨.root, 3⟩]
  edeccrReset := 0#32
  edesrEcReset := 0#1
  resetLevel := ⟨.root, 3⟩
  resetPreservesEdeccr := false
  edesrEcBit := 3

namespace Config

/-- FREE VALUE (safe), log 2: which alternative of an operation's outcome set happens (00_scope.md R8); it is applied
to State's counter `draws`. -/
opaque freeChoice : Nat → Nat

/-- FREE VALUE (safe), log 24: which of two events due at one point comes first where the spec fixes no order
(60_exceptions.md R106). -/
opaque freeTurn : Nat → Bool

/-- FREE VALUE (safe), log 17: whether the PE has fetched from the address in `PC` before it enters Debug state, where
20_memory.md R32 leaves both possible. -/
opaque freeFetch : Nat → Bool

/-- FREE VALUE (safe), log 8: the bits of `EDESR` other than `EC` (43_register_access.md R95: "outside this spec"). -/
opaque freeEdesr : Nat → Word

/-- FREE VALUE (safe), log 15: a vector address whose sum does not fit in the address width (00_scope.md R7: "whose
width and wrap-around it does not state"). -/
opaque freeVector : Nat → Addr

end Config

end Sys2Proof
end

