-- ==== Sys2Proof/Machine/State.lean ====
section
/-! DEFINITION. The state of the machine: the component's registers, the environment's registers the spec names, the
environment's answers, the inputs still to come (10_state.md, 00_scope.md R2 to R9). -/

namespace Sys2Proof.Machine

/-- `PSTATE` (R21), and every register that holds a PE state: the current Exception level is its one named field. The
rest is carried whole. PRESUMED width of the rest (unsafe), log 14. -/
structure PState where
  el : EL
  rest : Addr
deriving DecidableEq, Repr

/-- The registers an exception taken to one of EL1, EL2, EL3 writes, with the vector base (R22, 60_exceptions.md R108;
the EL2 and EL3 instances are G13's). -/
structure ElRegs where
  elr : Addr
  spsr : PState
  esr : Addr
  far : Addr
  vbar : Addr
deriving DecidableEq, Repr

/-- Why the PE is in Debug state (R18): Exception Catch, or one of the other debug events 60_exceptions.md names. -/
inductive HaltReason where
  | exceptionCatch
  | resetCatch
  | haltingStep
  /-- another debug event of the instruction about to execute (42_pending.md R85) -/
  | synchronousDebugEvent
  /-- an asynchronous debug event (R105) -/
  | asynchronousDebugEvent
deriving DecidableEq, Repr

/-- The outcomes of an operation (00_scope.md R8), as recorded in the state. -/
inductive OutcomeTag where
  | cont
  | halted
  | yield
deriving DecidableEq, Repr

/-- What the environment's rules give for its next exception return, none of it in the source (41_generation.md R65,
U27; log 18). -/
structure ReturnAnswers where
  /-- the architecture does not permit the return -/
  illegal : Bool
  /-- the Security state a legal return goes to -/
  ss : SS
  /-- `PC` after an illegal return, and after any return at EL0, which has no registers (log 19) -/
  pc : Addr
  /-- the rest of `PSTATE` likewise -/
  rest : Addr
deriving DecidableEq, Repr

/-- The environment's answers to the predicates of 00_scope.md R6, which the component "reads and never writes". A
predicate of the whole PE state is held as the list of pairs at which it is true now (log 16). -/
structure EnvAnswers where
  /-- where "halting is allowed" when the PE is not in Debug state -/
  haltingAllowedAt : List Level
  /-- where an unmasked asynchronous exception "can be taken now" -/
  asyncExceptionAt : List Level
  /-- an asynchronous debug event is pending -/
  asyncDebugEventPending : Bool
  /-- where "address translation is disabled in the translation regime" -/
  translationDisabledAt : List Level
  /-- the rules for the next exception return -/
  eret : ReturnAnswers
  /-- the address of the instruction after the present one (log 20) -/
  nextPc : Addr
deriving DecidableEq, Repr

/-- The four groups of the vector table (R108; the table is G17's). -/
inductive VectorGroup where
  | currentSp0
  | currentSpx
  | lowerA64
  | lowerA32
deriving DecidableEq, Repr

/-- The four vectors of a group (R108; G17). -/
inductive VectorKind where
  | synchronous
  | irq
  | fiq
  | serror
deriving DecidableEq, Repr

/-- Which exception is taken: the four vectors' kinds, with the two debug exceptions whose place before the Exception
Catch event the spec speaks of apart from the other synchronous ones (60_exceptions.md R101, R106). -/
inductive ExceptionKind where
  | synchronous
  | softwareStep
  /-- the "exception trapping form of a Vector Catch debug event" (R106) -/
  | vectorCatch
  | irq
  | fiq
  | serror
deriving DecidableEq, Repr

/-- The two Execution states (60_exceptions.md R112 item 4). -/
inductive ExecutionState where
  | aarch64
  | aarch32
deriving DecidableEq, Repr

/-- The stack pointer a level uses (R108: "current level with `SP_EL0`", "with `SP_ELx`"). -/
inductive StackPointer where
  | sp0
  | spx
deriving DecidableEq, Repr

/-- Where the handler is. The group of a vector follows from the levels (`vectorGroup`) and from what the environment
gives here: the Execution state of a lower level, and the stack pointer of the current one. The target level can use AArch32 (60_exceptions.md R112 item 4), whose vector table is not in
the source: there the environment gives the address (log 15). -/
inductive Handler where
  | aarch64 (lower : ExecutionState) (sp : StackPointer)
  | aarch32 (pc : Addr)
deriving DecidableEq, Repr

/-- An exception the environment takes (60_exceptions.md R108): what the exception entry writes. -/
structure ExceptionEntry where
  /-- the Exception level and Security state the exception is taken to -/
  target : Level
  handler : Handler
  kind : ExceptionKind
  /-- the preferred return address -/
  returnAddress : Addr
  /-- the syndrome information -/
  syndrome : Addr
  faultAddress : Addr
  /-- the rest of the handler's initial `PSTATE` -/
  handlerRest : Addr
deriving DecidableEq, Repr

/-- What a reset leaves in the environment's registers: "not in source; environment; unspecified" (R26), so the
environment supplies all of it. -/
structure ResetEntry where
  pc : Addr
  rest : Addr
  el1 : ElRegs
  el2 : ElRegs
  el3 : ElRegs
  dlrEl0 : Addr
  dspsrEl0 : PState
deriving DecidableEq, Repr

/-- The environment's own moves: the `ENV:` lines of the scenario notation (30_encoding.md R45). -/
inductive EnvMove where
  /-- the answers to the predicates of R6 change -/
  | answers (a : EnvAnswers)
  /-- an exception is taken (R108) -/
  | takeException (e : ExceptionEntry)
  /-- an exception return is performed (41_generation.md R64, R65) -/
  | exceptionReturn
  /-- a reset entry is processed (70_reset_and_hazards.md R120, R121) -/
  | reset (r : ResetEntry)
  /-- code in AArch32 state changes level or Security state other than by an exception return (R97); the `PC` after it
  is the environment's (log 20) -/
  | changeLevel (lv : Level) (pc rest : Addr)
  /-- another debug event halts the PE (R101, R103) -/
  | haltFor (r : HaltReason)
  /-- execution resumes from `DLR_EL0` after the exit from Debug state (G20) -/
  | resume
  /-- the program goes on: any other change of `PC` and of `PSTATE` at the same level -/
  | execute (pc rest : Addr)
  /-- the environment writes the exception registers of EL1, EL2 or EL3 -/
  | writeElRegs (el : EL) (r : ElRegs)
deriving DecidableEq, Repr

/-- Another event due at the same point as an Exception Catch debug event (60_exceptions.md section 2). Asynchronous
ones are not here: they are `AsyncExceptionTakeable` and `AsyncDebugEventPending` (R105). -/
inductive Rival where
  | resetCatch
  | softwareStep
  | haltingStep
  | vectorCatchException
  | synchronousException
  | debugEvent
deriving DecidableEq, Repr

/-- One input of the machine, handled by one step (log 1). -/
inductive Input where
  /-- a move of the environment -/
  | env (m : EnvMove)
  /-- an operation is invoked (R41) -/
  | op (i : Instr)
  /-- an operation is invoked while another event is due at the same point (60_exceptions.md section 2, log 24) -/
  | contend (r : Rival) (i : Instr)
  /-- the PE executes an instruction word (R43) -/
  | insn (w : Word)
deriving DecidableEq, Repr

/-- The component never faults (00_scope.md R8: "The component never faults, never raises an exception, and never
blocks"): there is no fault to raise. -/
inductive Fault where
deriving DecidableEq, Repr

/-- Why an input has no meaning. Every refusal is safe: the model stops where the spec gives nothing. -/
inductive Refusal where
  /-- raised by exec's arm of an instruction that has no meaning yet; safe -/
  | notModelled (mnemonic : String)
  /-- raised by the hooks when `CatchEnabled` is asked about a pair without bits (40_control.md R54, R58: "the model
  refuses such a call"); safe -/
  | noCatchBits (lv : Level)
  /-- raised by `OP_EXIT_DEBUG` outside Debug state (R94: "Precondition: `s.Halted`"; log 10); safe -/
  | notInDebugState
  /-- raised by `ERET`, `ISB` and by the environment's moves of the running PE while the PE is in Debug state (R18:
  "the environment executes no program instruction"; log 21); safe -/
  | inDebugState
  /-- raised by an instruction word that is neither of R43's two; safe -/
  | wordNotInSpec (w : Word)
  /-- raised by a move of the environment that the spec says it does not make: to a pair the PE does not have
  (R6, R112), an exception taken to a lower level or to EL0 (R112; log 25); safe -/
  | environmentMove
deriving DecidableEq, Repr

/-- The state of the PE as far as the spec gives it. -/
structure State where
  /-- the configuration, which no step writes (R3, log 3) -/
  params : Params
  /-- `EDECCR`, and `OSECCR` (R10, R16) -/
  edeccr : Word
  /-- `EDESR.EC` (R17) -/
  edesrEc : Bit
  /-- Debug state with its reason: `Halted` is `isSome` (R18, log 30) -/
  debugState : Option HaltReason
  /-- `DLR_EL0` (R23) -/
  dlrEl0 : Addr
  /-- `DSPSR_EL0` (R23) -/
  dspsrEl0 : PState
  /-- `CurrentSS` (R19) -/
  currentSs : SS
  /-- `PSTATE`, with `CurrentEL` (R21) -/
  pstate : PState
  /-- the program counter (R20) -/
  pc : Addr
  /-- `ELR_EL1`, `SPSR_EL1`, `ESR_EL1`, `FAR_EL1`, `VBAR_EL1` (R22) -/
  el1 : ElRegs
  /-- the EL2 instances (R22) -/
  el2 : ElRegs
  /-- the EL3 instances (R22) -/
  el3 : ElRegs
  /-- hidden: the PE fetched from the address in `PC` before it entered Debug state (R25 item 4, R31, R32) -/
  fetchedAtHalt : Bool
  /-- the environment's answers (00_scope.md R6) -/
  env : EnvAnswers
  /-- MODEL's own: the inputs still to come (log 1) -/
  inbox : List Input
  /-- MODEL's own: the last operation's outcome (R8, log 2) -/
  lastOutcome : OutcomeTag
  /-- MODEL's own: the value the last read returned (R95, log 8) -/
  readData : Word
  /-- MODEL's own: the counter the free values are applied to (log 2) -/
  draws : Nat
deriving DecidableEq, Repr

/-- A register bank of zeros. DESIGN CHOICE (unsafe), log 13. -/
def ElRegs.zero : ElRegs := ⟨0#64, ⟨0, 0#64⟩, 0#64, 0#64, 0#64⟩

/-- The state after reset of a PE with parameters `p` (R26): `EDECCR`, `EDESR.EC`, the level and Security state are its
parameters, `Halted` is false, every other value is a DESIGN CHOICE (unsafe), log 13 and log 16. -/
def State.resetOf (p : Params) : State where
  params := p
  edeccr := p.edeccrReset
  edesrEc := if p.cfg.haveDebugv8p8 then p.edesrEcReset else 0#1
  debugState := none
  dlrEl0 := 0#64
  dspsrEl0 := ⟨0, 0#64⟩
  currentSs := p.resetLevel.ss
  pstate := ⟨p.resetLevel.el, 0#64⟩
  pc := 0#64
  el1 := ElRegs.zero
  el2 := ElRegs.zero
  el3 := ElRegs.zero
  fetchedAtHalt := false
  env := ⟨[], [], false, [], ⟨false, .nonSecure, 0#64, 0#64⟩, 0#64⟩
  inbox := []
  lastOutcome := .cont
  readData := 0#32
  draws := 0

/-- The machine right after reset, with `Params.typical` (log 3, log 12). -/
def State.reset : State := State.resetOf Params.typical

/-- `CurrentEL(s)`, `CurrentSS(s)` together (00_scope.md R6). -/
def State.level (s : State) : Level := ⟨s.currentSs, s.pstate.el⟩

/-- `Halted` (R18). -/
def State.halted (s : State) : Bool := s.debugState.isSome

end Sys2Proof.Machine
end

