-- ==== Sys2Proof/Machine/Flags.lean ====
section
/-! DEFINITION. The status bit `EDESR.EC`: setting, clearing, writing, reading (42_pending.md, 43_register_access.md). -/

namespace Sys2Proof.Machine

/-- `EDESR.EC <- v`. -/
def withEc (v : Bit) (s : State) : State := { s with edesrEc := v }

/-- `EDESR.EC <- 0` where the bit exists (42_pending.md R83, R88). -/
def clearEcIfPresent (s : State) : State :=
  if s.params.cfg.haveDebugv8p8 then withEc 0#1 s else s

/-- An Exception Catch debug event is held in `EDESR.EC` (R17); never without `FEAT_Debugv8p8` (R88). -/
def ecHeld (s : State) : Bool := s.params.cfg.haveDebugv8p8 && s.edesrEc == 1#1

/-- The `EC` bit of a value written to or read from `EDESR` (R17; its position is a parameter, log 7). -/
def ecOfWord (p : Params) (v : Word) : Bool := v.getLsbD p.edesrEcBit.val

/-- The effect of a write of `v` to `EDESR` (R82, R93): a 1 in `EC` clears the bit, a 0 does nothing. Without
`FEAT_Debugv8p8` there is no such bit to clear (R17, R88; log 9). -/
def writeOneToClear (v : Word) (s : State) : State :=
  if ecOfWord s.params v then clearEcIfPresent s else s

/-- The word a read of `EDESR` returns (R95): `EC` in its place, every other bit as in `other`. -/
def edesrWord (p : Params) (ec : Bit) (other : Word) : Word :=
  let place := 1#32 <<< p.edesrEcBit.val
  if ec = 1#1 then other ||| place else other &&& ~~~place

/-- What a read of `EDESR` returns, with `other` in the bits "outside this spec": `EC` in its place only "when
`HAVE_DEBUGV8P8`" (R95). -/
def edesrRead (other : Word) (s : State) : Word :=
  if s.params.cfg.haveDebugv8p8 then edesrWord s.params s.edesrEc other else other

end Sys2Proof.Machine
end

