-- ==== Sys2Proof/Machine/Operands.lean ====
section
/-! DEFINITION. How `EDECCR` enables the event: bank selection, the control tables, `CatchEnabled` (40_control.md). -/

namespace Sys2Proof.Machine

/-- The pairs for which `CatchEnabled` has bits. The others are refused: "`CatchEnabled` is never called with
(`NonSecure`, 3) or (`Realm`, 3), and the model refuses such a call" (R58), and Realm and Root without `HAVE_RME`
(R54). (Root, 0..2) is answered as R54's pseudocode does (log 6). -/
def hasCatchBits (c : Configuration) (lv : Level) : Bool :=
  match lv.ss with
  | .secure => true
  | .nonSecure => lv.el != 3
  | .realm => lv.el != 3 && c.haveRme
  | .root => c.haveRme

/-- The *E* bit of level 0 of a Security state's bank (R54, from R12; Root uses the Secure bank, R58). PRESUMED layout
beyond `NSE1` (unsafe), log 5. -/
def bankBase : SS → Nat
  | .secure => 0
  | .nonSecure => 4
  | .realm => 16
  | .root => 0

/-- How far the *R* bit lies above the *E* bit (R54, from R12). -/
def rDelta : SS → Nat
  | .secure => 8
  | .nonSecure => 8
  | .realm => 4
  | .root => 8

/-- The *E* bit of a pair: `SE<n>`, `NSE<n>` or `RLE<n>` (R50). -/
def eBit (edeccr : Word) (lv : Level) : Bool :=
  edeccr.getLsbD (bankBase lv.ss + lv.el.val)

/-- The *R* bit of a pair: `SR<n>`, `NSR<n>` or `RLR<n>` (R50). -/
def rBit (edeccr : Word) (lv : Level) : Bool :=
  edeccr.getLsbD (bankBase lv.ss + lv.el.val + rDelta lv.ss)

/-- The four rows of Tables H3-5 and H3-6 (R52, R53), on the control value `R:E`. -/
def twoBitHit (r e : Bool) (k : EntryKind) : Bool :=
  match r, e with
  | false, false => false
  | false, true => true
  | true, false => k == .ret
  | true, true => k == .entry || k == .reset

/-- What the control table of the configuration says (R51 without `FEAT_Debugv8p2` and `FEAT_RME`, else R52 and R53),
and R55 for a reset. -/
def catchHit (p : Params) (edeccr : Word) (lv : Level) (k : EntryKind) : Bool :=
  let hit :=
    if p.cfg.haveDebugv8p2 || p.cfg.haveRme then twoBitHit (rBit edeccr lv) (eBit edeccr lv) k
    else eBit edeccr lv
  if k == .reset && !p.resetIsExceptionCatch then false else hit

/-- `CatchEnabled(EDECCR, ss, el, kind)` (R54); `none` where R54 refuses. -/
def catchEnabled (p : Params) (edeccr : Word) (lv : Level) (k : EntryKind) : Option Bool :=
  if hasCatchBits p.cfg lv then some (catchHit p edeccr lv k) else none

end Sys2Proof.Machine
end

