-- ==== Sys2Proof/WellFormed.lean ====
section
/-! DEFINITION. Which operations exist in a configuration, and which parameters fit together. -/

namespace Sys2Proof

/-- The table lists the operation for the configuration: `OP_WRITE_EDESR` and `OP_READ_EDESR` "only when
`HAVE_DEBUGV8P8`" (opcode_table.json, R93). An access made all the same runs, and touches no `EC` bit (log 9). -/
def Instr.wellFormed (c : Configuration) : Instr → Bool
  | .opExcEntry => true
  | .opExcReturn _ => true
  | .opReset => true
  | .opInsnBoundary => true
  | .opWriteEdeccr _ => true
  | .opWriteOseccr _ => true
  | .opWriteEdesr _ => c.haveDebugv8p8
  | .opReadEdeccr => true
  | .opReadOseccr => true
  | .opReadEdesr => c.haveDebugv8p8
  | .opExitDebug => true
  | .opIsb => true
  | .opA32StateChange => true
  | .eret => true
  | .isb => true

/-- The PE has the pair (`IMPLEMENTED(ss, el)`, 00_scope.md R6). -/
def Params.has (p : Params) (lv : Level) : Bool := p.implemented.contains lv

/-- The parameters fit together: only pairs that `CatchEnabled` answers are implemented (R19, R58), and the PE resets
into an implemented pair (R26). -/
def Params.wellFormed (p : Params) : Bool :=
  p.implemented.all (Machine.hasCatchBits p.cfg) && p.has p.resetLevel

end Sys2Proof
end

