-- ==== Sys2Proof/Machine/Ops.lean ====
section
/-! DEFINITION. The shared operations: the environment's predicates, outcome sets and their resolution, the halt,
the common check of the hooks, taking an exception and returning from one. -/

namespace Sys2Proof.Machine

/-! ### The environment's predicates (00_scope.md R6) -/

/-- `HaltingAllowed(s)`; it is false in Debug state (R6, D4). -/
def haltingAllowed (s : State) : Bool := !s.halted && s.env.haltingAllowedAt.contains s.level

/-- `AsyncExceptionTakeable(s)`. -/
def asyncExceptionTakeable (s : State) : Bool := s.env.asyncExceptionAt.contains s.level

/-- `AsyncDebugEventPending(s)`. -/
def asyncDebugEventPending (s : State) : Bool := s.env.asyncDebugEventPending

/-- `TranslationDisabled(s)`. -/
def translationDisabled (s : State) : Bool := s.env.translationDisabledAt.contains s.level

/-- An asynchronous exception or debug event may come before the halt (60_exceptions.md R105). -/
def asyncDue (s : State) : Bool := asyncExceptionTakeable s || asyncDebugEventPending s

/-! ### Outcome sets (00_scope.md R8) -/

/-- An outcome of an operation. -/
inductive OpOutcome where
  | cont (s : State)
  | halted (s : State)
  | yield (s : State)
deriving DecidableEq, Repr

/-- A set of outcomes, never empty. -/
structure Alternatives where
  first : OpOutcome
  rest : List OpOutcome
deriving DecidableEq, Repr

/-- The members. -/
def Alternatives.toList (a : Alternatives) : List OpOutcome := a.first :: a.rest

/-- The set with one member. -/
def only (o : OpOutcome) : Alternatives := ⟨o, []⟩

/-- `outs + { o }` under a condition. -/
def Alternatives.addIf (c : Bool) (o : OpOutcome) (a : Alternatives) : Alternatives :=
  if c then ⟨a.first, a.rest ++ [o]⟩ else a

/-- The member that the number `n` picks: the one at place `n`, the last one when there is none. -/
def pick (first : OpOutcome) : List OpOutcome → Nat → OpOutcome
  | [], _ => first
  | o :: os, n => if n = 0 then first else pick o os (n - 1)

/-- The outcome's state. -/
def OpOutcome.state : OpOutcome → State
  | .cont s => s
  | .halted s => s
  | .yield s => s

/-- Which outcome it is. -/
def OpOutcome.tag : OpOutcome → OutcomeTag
  | .cont _ => .cont
  | .halted _ => .halted
  | .yield _ => .yield

/-- The state the machine goes on with: the outcome's state, with the model's record of the outcome, and the counter
of the free values advanced. -/
def OpOutcome.conclude (o : OpOutcome) : State :=
  { o.state with lastOutcome := o.tag, draws := o.state.draws + 1 }

/-- One step's result from an outcome set: the member the free choice picks (log 2). -/
def settle (s : State) (a : Alternatives) : Host.Outcome State Fault Refusal :=
  .next (pick a.first a.rest (Config.freeChoice s.draws)).conclude

/-- `settle`, where the outcome set may be refused. -/
def settleOr (s : State) : Except Refusal Alternatives → Host.Outcome State Fault Refusal
  | .ok a => settle s a
  | .error r => .refused r

/-- The operation's one outcome is `Continue(t)`. -/
def continueWith (s t : State) : Host.Outcome State Fault Refusal := settle s (only (.cont t))

/-! ### The halt (60_exceptions.md R107) -/

/-- Entry to Debug state: `DLR_EL0`, `DSPSR_EL0`, `Halted`, with the reason (R107, R18). Whether the PE fetched from the
address in `PC` before it is free (10_state.md R25 item 4, 20_memory.md R32; log 17). -/
def enterDebugState (r : HaltReason) (s : State) : State :=
  { s with dlrEl0 := s.pc, dspsrEl0 := s.pstate, debugState := some r, fetchedAtHalt := Config.freeFetch s.draws }

/-- `EDESR.EC` on entry to Debug state: drawn or kept (R107). -/
inductive EcOnHalt where
  | draw
  | keep
deriving DecidableEq, Repr

/-- Whether the PE fetched from the address in `PC` before the halt: never after an exception entry with translation
disabled at the target (20_memory.md R31), else free (R32; log 17). -/
def fetchBeforeHalt (afterEntry : Bool) (s : State) : Bool :=
  if afterEntry && translationDisabled s then false else Config.freeFetch s.draws

/-- The PE halted by Exception Catch, before `EDESR.EC` is drawn. -/
def caught (afterEntry : Bool) (s : State) : State :=
  { enterDebugState .exceptionCatch s with fetchedAtHalt := fetchBeforeHalt afterEntry s }

/-- `Halt(s, ExceptionCatch, ec)` (R107): the draw of `EDESR.EC` makes it two outcomes (42_pending.md R84). -/
def haltAlternatives (ec : EcOnHalt) (afterEntry : Bool) (s : State) : Alternatives :=
  if s.params.cfg.haveDebugv8p8 && ec == .draw then
    ⟨.halted (withEc 0#1 (caught afterEntry s)), [.halted (withEc 1#1 (caught afterEntry s))]⟩
  else only (.halted (caught afterEntry s))

/-! ### The hooks' common check (41_generation.md R60) -/

/-- `common_check(s, kind)`: true for `Generated`; refused where `CatchEnabled` refuses. -/
def commonCheck (k : EntryKind) (s : State) : Except Refusal Bool :=
  if haltingAllowed s then
    match catchEnabled s.params s.edeccr s.level k with
    | some b => .ok b
    | none => .error (.noCatchBits s.level)
  else .ok false

/-- With `EC_WHEN_PROHIBITED = IgnoreOrPend`, an event that is enabled while halting is prohibited may also be pended
(R75); not while the PE is already in Debug state (60_exceptions.md R103; log 23). -/
def mayPendProhibited (k : EntryKind) (s : State) : Bool :=
  s.params.ecWhenProhibited == .ignoreOrPend && s.params.cfg.haveDebugv8p8 && k != .ret &&
    !haltingAllowed s && !s.halted && catchEnabled s.params s.edeccr s.level k == some true

/-- The outcomes of a hook whose common check answers `NotGenerated` (R60, R75). -/
def notGenerated (k : EntryKind) (s : State) : Alternatives :=
  (only (.cont s)).addIf (mayPendProhibited k s) (.cont (withEc 1#1 s))

/-- The outcomes of an event generated on exception entry or reset, per configuration (R61 and R62, R71, R73). -/
def entryAlternatives (afterEntry : Bool) (s : State) : Alternatives :=
  if s.params.cfg.haveDebugv8p8 then
    (haltAlternatives .draw afterEntry (withEc 1#1 s)).addIf (asyncDue (withEc 1#1 s)) (.yield (withEc 1#1 s))
  else if s.params.cfg.haveDebugv8p2 then haltAlternatives .draw afterEntry s
  else (haltAlternatives .draw afterEntry s).addIf (asyncDue s) (.yield s)

/-- `OP_EXC_ENTRY`'s pseudocode, for an exception taken or for a reset (R60, R76). -/
def entryHook (k : EntryKind) (s : State) : Except Refusal Alternatives :=
  match commonCheck k s with
  | .error r => .error r
  | .ok true => .ok (entryAlternatives (k == .entry) s)
  | .ok false => .ok (notGenerated k s)

/-- An asynchronous exception may come before an event generated on exception return (R67). The switch of
90_conflicts.md C4 takes them out in `CFG_V8P2*` (log 32). -/
def returnMayYieldToException (s : State) : Bool :=
  asyncExceptionTakeable s &&
    !(s.params.returnEcBeforeAsyncV8p2 && s.params.cfg.haveDebugv8p2 && !s.params.cfg.haveDebugv8p8)

/-- Something may come before an event generated on exception return (R67). -/
def returnMayYield (s : State) : Bool := returnMayYieldToException s || asyncDebugEventPending s

/-- The outcomes of an event generated on exception return (R66, R67, R74). -/
def returnAlternatives (s : State) : Alternatives :=
  (haltAlternatives (if ecHeld s then .draw else .keep) false s).addIf (returnMayYield s) (.yield s)

/-- `OP_EXC_RETURN`'s pseudocode (R64 to R67, R74): an illegal return is judged at the level the environment has left
the PE at, like any other (R65). -/
def returnHook (s : State) : Except Refusal Alternatives :=
  match commonCheck .ret s with
  | .error r => .error r
  | .ok true => .ok (returnAlternatives s)
  | .ok false => .ok (notGenerated .ret s)

/-- `OP_INSN_BOUNDARY` in `CFG_V8P0` (R68): CONSTRAINED UNPREDICTABLE, both admitted. A pair without bits is refused
as in R58 (log 6). -/
def unpredictableAlternatives (s : State) : Except Refusal Alternatives :=
  if haltingAllowed s then
    if hasCatchBits s.params.cfg s.level then
      .ok (if eBit s.edeccr s.level then ⟨.cont s, [.halted (caught false s)]⟩ else only (.cont s))
    else .error (.noCatchBits s.level)
  else .ok (only (.cont s))

/-- `OP_INSN_BOUNDARY` with `FEAT_Debugv8p8` (42_pending.md R80, R81). -/
def pendingAlternatives (s : State) : Alternatives :=
  if ecHeld s && haltingAllowed s then
    (haltAlternatives .draw false s).addIf (asyncDue s) (.yield s)
  else only (.cont s)

/-- `OP_INSN_BOUNDARY`, per configuration (R68, R70, R72, R80). -/
def boundaryHook (s : State) : Except Refusal Alternatives :=
  if s.params.cfg.haveDebugv8p8 then .ok (pendingAlternatives s)
  else if s.params.cfg.haveDebugv8p2 then .ok (only (.cont s))
  else unpredictableAlternatives s

/-! ### Exception entry and return by the environment (60_exceptions.md R108, 41_generation.md R64, R65) -/

/-- The registers of EL1, EL2 or EL3; EL0 has none (R22). -/
def elRegs (el : EL) (s : State) : Option ElRegs :=
  match el with
  | 0 => none
  | 1 => some s.el1
  | 2 => some s.el2
  | 3 => some s.el3

/-- Writes the registers of EL1, EL2 or EL3. -/
def withElRegs (el : EL) (r : ElRegs) (s : State) : State :=
  match el with
  | 0 => s
  | 1 => { s with el1 := r }
  | 2 => { s with el2 := r }
  | 3 => { s with el3 := r }

/-- The exception is asynchronous (R113; the three kinds are G17's). -/
def ExceptionKind.isAsynchronous : ExceptionKind → Bool
  | .synchronous => false
  | .softwareStep => false
  | .vectorCatch => false
  | .irq => true
  | .fiq => true
  | .serror => true

/-- The vector of an exception; that the two debug exceptions use the synchronous one is PRESUMED (unsafe), log 15. -/
def ExceptionKind.vector : ExceptionKind → VectorKind
  | .synchronous => .synchronous
  | .softwareStep => .synchronous
  | .vectorCatch => .synchronous
  | .irq => .irq
  | .fiq => .fiq
  | .serror => .serror

/-- The offset of a vector (R108). The source gives `0x400` for the synchronous vector of a lower level using AArch64;
the others are PRESUMED from G17 (unsafe), log 15. -/
def vectorOffset : VectorGroup → VectorKind → Nat
  | .currentSp0, .synchronous => 0x000
  | .currentSp0, .irq => 0x080
  | .currentSp0, .fiq => 0x100
  | .currentSp0, .serror => 0x180
  | .currentSpx, .synchronous => 0x200
  | .currentSpx, .irq => 0x280
  | .currentSpx, .fiq => 0x300
  | .currentSpx, .serror => 0x380
  | .lowerA64, .synchronous => 0x400
  | .lowerA64, .irq => 0x480
  | .lowerA64, .fiq => 0x500
  | .lowerA64, .serror => 0x580
  | .lowerA32, .synchronous => 0x600
  | .lowerA32, .irq => 0x680
  | .lowerA32, .fiq => 0x700
  | .lowerA32, .serror => 0x780

/-- The group of the vector of an exception taken from one level to another: a lower level's, by its Execution state, or
the current level's, by its stack pointer (R108; log 15). -/
def vectorGroup (lower : ExecutionState) (sp : StackPointer) (source target : EL) : VectorGroup :=
  if source < target then
    match lower with
    | .aarch64 => .lowerA64
    | .aarch32 => .lowerA32
  else
    match sp with
    | .sp0 => .currentSp0
    | .spx => .currentSpx

/-- `VBAR_ELx + offset` (R108); a sum that does not fit is a free value, for the source gives no wrap-around (R7;
log 15). -/
def vectorAddress (vbar : Addr) (offset n : Nat) : Addr :=
  if vbar.toNat + offset < 2 ^ 64 then BitVec.ofNat 64 (vbar.toNat + offset) else Config.freeVector n

/-- The handler's address for an exception taken from a level (R108); the environment's where the target level uses
AArch32 (log 15). -/
def handlerAddress (e : ExceptionEntry) (source : EL) (vbar : Addr) (n : Nat) : Addr :=
  match e.handler with
  | .aarch64 lower sp =>
    vectorAddress vbar (vectorOffset (vectorGroup lower sp source e.target.el) e.kind.vector) n
  | .aarch32 pc => pc

/-- Taking an exception: "`ELR_EL1` and `SPSR_EL1` are written with the preferred return address and PE state",
"`ESR_EL1` and `FAR_EL1` are written with the syndrome information", `PC` is the handler's address,
`PSTATE` the handler's, the level the target's (R108); the same registers where the target uses AArch32 (log 15).
Refused for EL0, a lower level, or a pair the PE does not have (R112). -/
def takeException (e : ExceptionEntry) (s : State) : Except Refusal State :=
  match elRegs e.target.el s with
  | none => .error .environmentMove
  | some old =>
    if s.halted then .error .inDebugState
    else if s.pstate.el ≤ e.target.el ∧ s.params.has e.target then
      let saved : ElRegs :=
        { elr := e.returnAddress, spsr := s.pstate, esr := e.syndrome, far := e.faultAddress, vbar := old.vbar }
      .ok { withElRegs e.target.el saved s with
            pc := handlerAddress e s.pstate.el old.vbar s.draws
            pstate := ⟨e.target.el, e.handlerRest⟩
            currentSs := e.target.ss
            draws := s.draws + 1 }
    else .error .environmentMove

/-- What an exception return did: the state after it, and whether it was illegal. -/
structure Returned where
  state : State
  illegal : Bool
deriving DecidableEq, Repr

/-- An exception return is not permitted: the environment says so, or it asks for a higher level or a pair the PE does
not have (R112; log 18). -/
def returnIsIllegal (asked : PState) (s : State) : Bool :=
  s.env.eret.illegal || decide (s.pstate.el < asked.el) || !s.params.has ⟨s.env.eret.ss, asked.el⟩

/-- The `PC` and `PSTATE` a return asks for. -/
structure ReturnState where
  pc : Addr
  pstate : PState
deriving DecidableEq, Repr

/-- What a return at the current level asks for: `ELR_ELx` and `SPSR_ELx` (95_test_vectors.md P1, P2, P3). EL0 has no
such registers (R22): the environment gives the address and the rest of `PSTATE`, and the level is EL0, for returns go
"to the same or a lower level" (R112; log 19). -/
def returnState (s : State) : ReturnState :=
  match elRegs s.pstate.el s with
  | some r => ⟨r.elr, r.spsr⟩
  | none => ⟨s.env.eret.pc, ⟨s.pstate.el, s.env.eret.rest⟩⟩

/-- The return of the current state is illegal. -/
def illegalNow (s : State) : Bool := returnIsIllegal (returnState s).pstate s

/-- The state after a legal exception return: `PC` and `PSTATE` restored, the Security state the environment's. -/
def legalReturn (s : State) : State :=
  { s with pc := (returnState s).pc, pstate := (returnState s).pstate, currentSs := s.env.eret.ss }

/-- The state after an illegal exception return, at whatever level: the level and Security state stay (R65), `PC` and
the rest of `PSTATE` are as the environment gives them (U27). -/
def illegalReturn (s : State) : State :=
  { s with pc := s.env.eret.pc, pstate := ⟨s.pstate.el, s.env.eret.rest⟩ }

/-- An exception return; none is executed in Debug state (10_state.md R18). -/
def exceptionReturn (s : State) : Except Refusal Returned :=
  if s.halted then .error .inDebugState
  else .ok (if illegalNow s then ⟨illegalReturn s, true⟩ else ⟨legalReturn s, false⟩)

end Sys2Proof.Machine
end

