-- ==== Sys2Proof/Machine/Environment.lean ====
section
/-! DEFINITION. The environment's own moves: the `ENV:` lines of a scenario (30_encoding.md R45, 00_scope.md R2). -/

namespace Sys2Proof.Machine

/-- A reset entry (70_reset_and_hazards.md R120, R121; 10_state.md R26): the parameters where there are any, `EDECCR`
kept where `RESET_PRESERVES_EDECCR`, `Halted` false, everything else as the environment supplies it. -/
def resetEntry (r : ResetEntry) (s : State) : State :=
  { s with
    edeccr := if s.params.resetPreservesEdeccr then s.edeccr else s.params.edeccrReset
    edesrEc := if s.params.cfg.haveDebugv8p8 then s.params.edesrEcReset else s.edesrEc
    debugState := none
    dlrEl0 := r.dlrEl0
    dspsrEl0 := r.dspsrEl0
    currentSs := s.params.resetLevel.ss
    pstate := ⟨s.params.resetLevel.el, r.rest⟩
    pc := r.pc
    el1 := r.el1
    el2 := r.el2
    el3 := r.el3 }

/-- A change of level or Security state in AArch32 state (43_register_access.md R97). -/
def changeLevel (lv : Level) (pc rest : Addr) (s : State) : State :=
  { s with currentSs := lv.ss, pstate := ⟨lv.el, rest⟩, pc := pc }

/-- Another debug event halts the PE (R101, R103). Whether it can while `HaltingAllowed` is false is not in the source:
here it can, `HaltingAllowed` being what the Exception Catch event asks. DESIGN CHOICE (safe), log 37. -/
def haltForOther (r : HaltReason) (s : State) : State := { enterDebugState r s with draws := s.draws + 1 }

/-- Execution resumes at `DLR_EL0` with `PSTATE` from `DSPSR_EL0` (R94). PRESUMED from G20 (unsafe), log 26. -/
def resumeFromLink (s : State) : State := { s with pc := s.dlrEl0, pstate := s.dspsrEl0 }

/-- A move of the running PE: refused in Debug state (10_state.md R18) and where the environment does not make it. -/
def whileRunning (permitted : Bool) (s t : State) : Except Refusal State :=
  if s.halted then .error .inDebugState
  else if permitted then .ok t
  else .error .environmentMove

/-- The state after a move of the environment. -/
def envMove (m : EnvMove) (s : State) : Except Refusal State :=
  match m with
  | .answers a => .ok { s with env := a }
  | .takeException e => takeException e s
  | .exceptionReturn => (exceptionReturn s).map Returned.state
  | .reset r => .ok (resetEntry r s)
  | .changeLevel lv pc rest => whileRunning (s.params.has lv) s (changeLevel lv pc rest s)
  | .haltFor r => whileRunning (r != .exceptionCatch) s (haltForOther r s)
  | .resume => whileRunning (s.params.has ⟨s.currentSs, s.dspsrEl0.el⟩) s (resumeFromLink s)
  | .execute pc rest => whileRunning true s { s with pc := pc, pstate := ⟨s.pstate.el, rest⟩ }
  | .writeElRegs el r => if el = 0 then .error .environmentMove else .ok (withElRegs el r s)

/-- A move of the environment as a step's result: no operation of the component runs. -/
def runEnvMove (m : EnvMove) (s : State) : Host.Outcome State Fault Refusal :=
  match envMove m s with
  | .ok t => .next t
  | .error r => .refused r

end Sys2Proof.Machine
end

