-- ==== Sys2Proof/Machine/Hooks.lean ====
section
/-! DEFINITION. The hooks: `OP_EXC_ENTRY`, `OP_EXC_RETURN`, `OP_RESET`, `OP_INSN_BOUNDARY`, `OP_A32_STATE_CHANGE`
(41_generation.md, 42_pending.md, 43_register_access.md). -/

namespace Sys2Proof.Machine

/-- `OP_EXC_ENTRY` (R60 to R63, R71, R73, R75). -/
def execOpExcEntry (s : State) : Host.Outcome State Fault Refusal := settleOr s (entryHook .entry s)

/-- `OP_EXC_RETURN(illegal)` (R64 to R67, R74). "The component does nothing different" for an illegal return: the flag
tells how the environment came to the state, and is not read (R65). -/
def execOpExcReturn (_illegal : Bool) (s : State) : Host.Outcome State Fault Refusal := settleOr s (returnHook s)

/-- `OP_RESET` (R76): `OP_EXC_ENTRY`'s pseudocode with `common_check(s, Reset)`, which never hits unless
`RESET_IS_EXCEPTION_CATCH` (R55). -/
def execOpReset (s : State) : Host.Outcome State Fault Refusal := settleOr s (entryHook .reset s)

/-- `OP_INSN_BOUNDARY` (R68, R70, R72, R80, R81). -/
def execOpInsnBoundary (s : State) : Host.Outcome State Fault Refusal := settleOr s (boundaryHook s)

/-- `OP_A32_STATE_CHANGE` (R97): "the component does nothing at that moment". -/
def execOpA32StateChange (s : State) : Host.Outcome State Fault Refusal := continueWith s s

end Sys2Proof.Machine
end

