-- ==== Sys2Proof/Machine/PeInstructions.lean ====
section
/-! DEFINITION. The ISB operation and the two A64 instructions the spec names (43_register_access.md R96,
30_encoding.md R43). -/

namespace Sys2Proof.Machine

/-- `OP_ISB` (R96): "The ISB operation has no effect on the component". -/
def execOpIsb (s : State) : Host.Outcome State Fault Refusal := continueWith s s

/-- `ERET`: "the environment performs the return, then calls `OP_EXC_RETURN`" (opcode_table.json, R43). -/
def execEret (s : State) : Host.Outcome State Fault Refusal :=
  match exceptionReturn s with
  | .ok r => settleOr r.state (returnHook r.state)
  | .error e => .refused e

/-- `ISB`: "maps to `OP_ISB`, which has no effect on the component" (opcode_table.json, R43). The environment goes on
at the next instruction (log 20). -/
def execIsb (s : State) : Host.Outcome State Fault Refusal :=
  if s.halted then .refused .inDebugState else continueWith s { s with pc := s.env.nextPc }

end Sys2Proof.Machine
end

