-- ==== Sys2Proof/Machine/RegisterAccess.lean ====
section
/-! DEFINITION. Register writes and reads, and the exit from Debug state (43_register_access.md). -/

namespace Sys2Proof.Machine

/-- Writes the storage of `EDECCR` and `OSECCR` (R16). -/
def withEdeccr (v : Word) (s : State) : State := { s with edeccr := v }

/-- A read returns `v` and changes nothing else (R95); the model holds what was returned (log 8). -/
def withReadData (v : Word) (s : State) : State := { s with readData := v }

/-- `OP_WRITE_EDECCR(v)` (R90). -/
def execOpWriteEdeccr (v : Word) (s : State) : Host.Outcome State Fault Refusal := continueWith s (withEdeccr v s)

/-- `OP_WRITE_OSECCR(v)` (R91): `OSECCR` is the same storage (R16). -/
def execOpWriteOseccr (v : Word) (s : State) : Host.Outcome State Fault Refusal := continueWith s (withEdeccr v s)

/-- `OP_WRITE_EDESR(v)` (R82, R93), at "any time" (30_encoding.md R41). Without `FEAT_Debugv8p8` it changes nothing the
spec gives the machine (log 9). -/
def execOpWriteEdesr (v : Word) (s : State) : Host.Outcome State Fault Refusal := continueWith s (writeOneToClear v s)

/-- `OP_READ_EDECCR` (R95). -/
def execOpReadEdeccr (s : State) : Host.Outcome State Fault Refusal := continueWith s (withReadData s.edeccr s)

/-- `OP_READ_OSECCR` (R95, R16). -/
def execOpReadOseccr (s : State) : Host.Outcome State Fault Refusal := continueWith s (withReadData s.edeccr s)

/-- `OP_READ_EDESR` (R95), at "any time" (30_encoding.md R41): the bits beside `EC` are free, all of them without
`FEAT_Debugv8p8` (log 8, log 9). -/
def execOpReadEdesr (s : State) : Host.Outcome State Fault Refusal :=
  continueWith s (withReadData (edesrRead (Config.freeEdesr s.draws) s) s)

/-- Leaving Debug state (R94): `Halted <- false`, and `EDESR.EC <- 0` where the bit exists (R83). -/
def leaveDebugState (s : State) : State := clearEcIfPresent { s with debugState := none }

/-- `OP_EXIT_DEBUG` (R94), whose precondition is `s.Halted` (log 10). The exit consults no `EDECCR` bit. -/
def execOpExitDebug (s : State) : Host.Outcome State Fault Refusal :=
  if s.halted then continueWith s (leaveDebugState s) else .refused .notInDebugState

end Sys2Proof.Machine
end

