-- ==== Sys2Proof/Machine/Dispatch.lean ====
section
/-! DEFINITION. The meaning of every instruction. -/

namespace Sys2Proof.Machine

/-- The meaning of every row of the opcode table. -/
def exec (i : Instr) (s : State) : Host.Outcome State Fault Refusal :=
  match i with
  | .opExcEntry => Sys2Proof.Machine.execOpExcEntry s
  | .opExcReturn illegal => Sys2Proof.Machine.execOpExcReturn illegal s
  | .opReset => Sys2Proof.Machine.execOpReset s
  | .opInsnBoundary => Sys2Proof.Machine.execOpInsnBoundary s
  | .opWriteEdeccr v => Sys2Proof.Machine.execOpWriteEdeccr v s
  | .opWriteOseccr v => Sys2Proof.Machine.execOpWriteOseccr v s
  | .opWriteEdesr v => Sys2Proof.Machine.execOpWriteEdesr v s
  | .opReadEdeccr => Sys2Proof.Machine.execOpReadEdeccr s
  | .opReadOseccr => Sys2Proof.Machine.execOpReadOseccr s
  | .opReadEdesr => Sys2Proof.Machine.execOpReadEdesr s
  | .opExitDebug => Sys2Proof.Machine.execOpExitDebug s
  | .opIsb => Sys2Proof.Machine.execOpIsb s
  | .opA32StateChange => Sys2Proof.Machine.execOpA32StateChange s
  | .eret => Sys2Proof.Machine.execEret s
  | .isb => Sys2Proof.Machine.execIsb s

end Sys2Proof.Machine
end

