-- ==== Sys2Proof/Machine/Priority.lean ====
section
/-! DEFINITION. Prioritisation against the other events due at the same point (60_exceptions.md R101 to R103, R106;
42_pending.md R85). The asynchronous ones are in the hooks' outcome sets (R104, R105). -/

namespace Sys2Proof.Machine

/-- The point at which an Exception Catch debug event may be due. -/
inductive Point where
  | entry
  | ret
  | reset
  | boundary
deriving DecidableEq, Repr

/-- Which of two events due at one point the environment lets happen first. -/
inductive Turn where
  | catchFirst
  | rivalFirst
  | either
deriving DecidableEq, Repr

/-- The order a rank gives. -/
def turnOfRank : Rank → Turn
  | .higher => .catchFirst
  | .lower => .rivalFirst

/-- The table of 60_exceptions.md section 2: Reset Catch is higher (R103), Software Step and Halting Step as the
parameters say (R101, R85), a Vector Catch exception "might generate a second debug exception as part of the exception
entry" (R106), every other synchronous exception and debug event is lower (R102, R85). -/
def turn (p : Params) (at_ : Point) (r : Rival) : Turn :=
  match r with
  | .resetCatch => .rivalFirst
  | .softwareStep => turnOfRank p.ecVsSoftwareStep
  | .haltingStep => turnOfRank p.ecVsHaltingStep
  | .vectorCatchException => if at_ = .entry then .either else .catchFirst
  | .synchronousException => .catchFirst
  | .debugEvent => .catchFirst

/-- The point a hook stands for; the other operations have none (`ERET` reaches its own through `contendEret`). -/
def pointOf : Instr → Option Point
  | .opExcEntry => some .entry
  | .opExcReturn _ => some .ret
  | .opReset => some .reset
  | .opInsnBoundary => some .boundary
  | .opWriteEdeccr _ => none
  | .opWriteOseccr _ => none
  | .opWriteEdesr _ => none
  | .opReadEdeccr => none
  | .opReadOseccr => none
  | .opReadEdesr => none
  | .opExitDebug => none
  | .opIsb => none
  | .opA32StateChange => none
  | .eret => none
  | .isb => none

/-- The common check answers `Generated`. -/
def isGenerated (k : EntryKind) (s : State) : Bool :=
  match commonCheck k s with
  | .ok b => b
  | .error _ => false

/-- An Exception Catch debug event is due: generated at an entry (R60), held and takeable (R80), or possible at a
boundary in `CFG_V8P0` (R68). -/
def eventDue (at_ : Point) (s : State) : Bool :=
  match at_ with
  | .entry => isGenerated .entry s
  | .ret => isGenerated .ret s
  | .reset => isGenerated .reset s
  | .boundary =>
    if s.params.cfg.haveDebugv8p8 then ecHeld s && haltingAllowed s
    else if s.params.cfg.haveDebugv8p2 then false
    else haltingAllowed s && hasCatchBits s.params.cfg s.level && eBit s.edeccr s.level

/-- The other event happens instead: a debug event halts the PE, an exception is left to the environment to take. The
Exception Catch event is not remembered (R101), and `EDESR.EC` is not set (R103). -/
def rivalHappens (r : Rival) (s : State) : State :=
  match r with
  | .resetCatch => enterDebugState .resetCatch s
  | .softwareStep => s
  | .haltingStep => enterDebugState .haltingStep s
  | .vectorCatchException => s
  | .synchronousException => s
  | .debugEvent => enterDebugState .synchronousDebugEvent s

/-- The step's result when the other event comes first. -/
def rivalFirst (r : Rival) (s : State) : Host.Outcome State Fault Refusal :=
  .next (OpOutcome.yield (rivalHappens r s)).conclude

/-- Another event that is due at the point of the operation happens before an Exception Catch debug event that is due
there too. With no Exception Catch event due there is nothing to order (log 24). -/
def rivalComesFirst (r : Rival) (i : Instr) (s : State) : Bool :=
  match pointOf i with
  | none => false
  | some at_ =>
    eventDue at_ s &&
      match turn s.params at_ r with
      | .catchFirst => false
      | .rivalFirst => true
      | .either => Config.freeTurn s.draws

/-- A hook invoked while another event is due at the same point. "the component's outcome sets ... are what it offers
when the Exception Catch event's turn comes". -/
def contendAt (r : Rival) (i : Instr) (s : State) : Host.Outcome State Fault Refusal :=
  if rivalComesFirst r i s then rivalFirst r s else exec i s

/-- `ERET` while another event is due at the return: the environment performs the return, then the event contends with
`OP_EXC_RETURN` (R43, R101). -/
def contendEret (r : Rival) (s : State) : Host.Outcome State Fault Refusal :=
  match exceptionReturn s with
  | .ok ret => contendAt r (.opExcReturn ret.illegal) ret.state
  | .error e => .refused e

/-- An operation or instruction while another event is due at the same point (60_exceptions.md section 2). -/
def contend (r : Rival) (i : Instr) (s : State) : Host.Outcome State Fault Refusal :=
  if i = .eret then contendEret r s else contendAt r i s

/-- The other event came first in a contention. -/
def rivalCameFirst (r : Rival) (i : Instr) (s : State) : Bool :=
  if i = .eret then
    match exceptionReturn s with
    | .ok ret => rivalComesFirst r (.opExcReturn ret.illegal) ret.state
    | .error _ => false
  else rivalComesFirst r i s

end Sys2Proof.Machine
end

