-- ==== Sys2Proof/Machine/Fetch.lean ====
section
/-! DEFINITION. One input: an instruction word is decoded, an operation is dispatched, the environment moves. -/

namespace Sys2Proof.Machine

/-- The PE executes an instruction word (30_encoding.md R43). -/
def runWord (w : Word) (s : State) : Host.Outcome State Fault Refusal :=
  match decode w with
  | .ok i => exec i s
  | .error (.notInSpec w) => .refused (.wordNotInSpec w)

/-- What one input does. -/
def runInput (x : Input) (s : State) : Host.Outcome State Fault Refusal :=
  match x with
  | .env m => runEnvMove m s
  | .op i => exec i s
  | .contend r i => contend r i s
  | .insn w => runWord w s

/-- The inputs after the first one. -/
def withInbox (xs : List Input) (s : State) : State := { s with inbox := xs }

/-- The next input is taken from the queue and handled; with none the machine is idle (log 27). -/
def runNext (s : State) : Host.Outcome State Fault Refusal :=
  match s.inbox with
  | [] => .next s
  | x :: xs => runInput x (withInbox xs s)

end Sys2Proof.Machine
end

