-- ==== Sys2Proof/Machine/Step.lean ====
section
/-! DEFINITION. One step of the machine: one atomic operation (20_memory.md R34). -/

namespace Sys2Proof.Machine

/-- One step. -/
def step (s : State) : Host.Outcome State Fault Refusal := runNext s

/-- The instruction word of the table's bits stands first in the queue, so that the very next step executes it. This is
how a program comes to run: its operations are put in the queue from outside the machine (log 1). -/
def State.withFetchWord (s : State) (nbits w : Nat) : State :=
  withInbox (.insn (tableWord nbits w) :: s.inbox) s

end Sys2Proof.Machine
end

