-- ==== Sys2Proof/Safety.lean ====
section
/-! DEFINITION. What every step keeps, which inputs have a meaning, and the hook contract of 00_scope.md R9. -/

namespace Sys2Proof.Machine

/-- What every step keeps: the parameters fit together, the PE is at a pair it has (00_scope.md R6), `EDESR.EC` is
inert where it does not exist (42_pending.md R88), and in Debug state `DLR_EL0` and `DSPSR_EL0` hold where and with
which PE state the PE halted (60_exceptions.md R107, 10_state.md R18). -/
structure State.Inv (s : State) : Prop where
  params_fit : s.params.wellFormed = true
  at_a_level : s.params.has s.level = true
  ec_absent : s.params.cfg.haveDebugv8p8 = false → s.edesrEc = 0#1
  halt_saved : s.halted = true → s.dlrEl0 = s.pc ∧ s.dspsrEl0 = s.pstate

/-- Everything the component reads and never writes, with the configuration and the queue (00_scope.md R6, 10_state.md
R20 to R22): what an operation of the component leaves as it was. -/
structure State.SameEnvironment (s t : State) : Prop where
  params : t.params = s.params
  currentSs : t.currentSs = s.currentSs
  pstate : t.pstate = s.pstate
  pc : t.pc = s.pc
  el1 : t.el1 = s.el1
  el2 : t.el2 = s.el2
  el3 : t.el3 = s.el3
  env : t.env = s.env
  inbox : t.inbox = s.inbox

/-- An event of the kind is generated in the state: "Halt if allowed" with halting allowed (41_generation.md R60). -/
def State.Generated (k : EntryKind) (s : State) : Prop :=
  haltingAllowed s = true ∧ catchEnabled s.params s.edeccr s.level k = some true

namespace Safety

/-- The operation has a meaning in the state: `OP_EXIT_DEBUG` in Debug state (R94), program instructions outside it
(R18), every other operation always. -/
def operationAllowed (i : Instr) (s : State) : Bool :=
  match i with
  | .opExcEntry => true
  | .opExcReturn _ => true
  | .opReset => true
  | .opInsnBoundary => true
  | .opWriteEdeccr _ => true
  | .opWriteOseccr _ => true
  | .opWriteEdesr _ => true
  | .opReadEdeccr => true
  | .opReadOseccr => true
  | .opReadEdesr => true
  | .opExitDebug => s.halted
  | .opIsb => true
  | .opA32StateChange => true
  | .eret => !s.halted
  | .isb => !s.halted

/-- The environment makes the move (R112, R6, R18). -/
def moveAllowed (m : EnvMove) (s : State) : Bool :=
  match m with
  | .answers _ => true
  | .takeException e =>
    !s.halted && e.target.el != 0 && decide (s.pstate.el ≤ e.target.el) && s.params.has e.target
  | .exceptionReturn => !s.halted
  | .reset _ => true
  | .changeLevel lv _ _ => !s.halted && s.params.has lv
  | .haltFor r => !s.halted && r != .exceptionCatch
  | .resume => !s.halted && s.params.has ⟨s.currentSs, s.dspsrEl0.el⟩
  | .execute _ _ => !s.halted
  | .writeElRegs el _ => el != 0

/-- The input has a meaning in the state. -/
def inputAllowed (x : Input) (s : State) : Bool :=
  match x with
  | .env m => moveAllowed m s
  | .op i => operationAllowed i s
  | .contend _ i => operationAllowed i s
  | .insn w =>
    match decode w with
    | .ok i => operationAllowed i s
    | .error _ => false

/-- The next step's input has a meaning. -/
def stepAllowed (s : State) : Bool :=
  match s.inbox with
  | [] => true
  | x :: _ => inputAllowed x s

/-! ### The hook contract (00_scope.md R9) -/

/-- What the environment owes the component, and how far it is with the present instruction. -/
inductive Owed where
  /-- no hook; `OP_INSN_BOUNDARY` has not been called for the next instruction -/
  | nothing
  /-- no hook; `OP_INSN_BOUNDARY` has been called for the next instruction and let it go on -/
  | boundaryCalled
  /-- as `nothing`: the instruction has made its access or invoked its operation, the program has not yet gone on -/
  | accessed
  /-- as `nothing`: the program has gone on, the instruction's access or operation may follow -/
  | executed
  /-- as `nothing`, right after the exit from Debug state -/
  | exited
  /-- an exception that came before the Exception Catch event is still to be taken (60_exceptions.md R101, R106) -/
  | exceptionDue (k : ExceptionKind)
  /-- a hook yielded: an asynchronous exception, where there was one, is still to be taken, or the PE still to halt for
  an asynchronous debug event, where there was one (41_generation.md R62, R67, R73; 42_pending.md R80) -/
  | asyncDue (exception debugEvent : Bool)
  /-- the hook of an entry, a return or a level change that has been processed -/
  | hook (i : Instr)
deriving DecidableEq, Repr

/-- An event is held in `EDESR.EC` and can be taken at the next boundary (42_pending.md R80). -/
def eventWaits (s : State) : Bool := ecHeld s && haltingAllowed s

/-- The environment owes nothing: it is before an instruction or in it. -/
def Owed.free : Owed → Bool
  | .nothing => true
  | .boundaryCalled => true
  | .accessed => true
  | .executed => true
  | .exited => true
  | .exceptionDue _ => false
  | .asyncDue _ _ => false
  | .hook _ => false

/-- The environment owes an asynchronous debug event's halt. -/
def Owed.debugEventDue : Owed → Bool
  | .asyncDue _ d => d
  | .nothing => false
  | .boundaryCalled => false
  | .accessed => false
  | .executed => false
  | .exited => false
  | .exceptionDue _ => false
  | .hook _ => false

/-- When the environment may take an exception: the one it owes; between an exception entry and its hook a Vector Catch
exception, "as part of the exception entry" (R106); where nothing is owed any, but while an event waits for the next
boundary no synchronous one (42_pending.md R85) but a Software Step exception ranked higher (R101). -/
def mayTakeException (k : ExceptionKind) (s : State) (o : Owed) : Bool :=
  match o with
  | .exceptionDue due => k == due
  | .asyncDue exception _ => exception && k.isAsynchronous
  | .hook i => i == .opExcEntry && k == .vectorCatch
  | .nothing | .boundaryCalled | .accessed | .executed | .exited =>
    k.isAsynchronous || !eventWaits s || (k == .softwareStep && s.params.ecVsSoftwareStep == .lower)

/-- When another debug event may halt the PE: where nothing is owed, a synchronous one as a synchronous exception (R85),
a Halting Step also where it is ranked higher (R101); an asynchronous one also where it is owed; Reset Catch before
`OP_RESET`, being the higher (R103; 95_test_vectors.md P5). That it does not halt the PE later, after an `OP_RESET` that
let it go on, is the model's: DESIGN CHOICE (unsafe), log 36; and so is that none of these asks `HaltingAllowed`, DESIGN
CHOICE (safe), log 37. -/
def mayHaltFor (r : HaltReason) (s : State) (o : Owed) : Bool :=
  match r with
  | .exceptionCatch => false
  | .resetCatch => o == .hook .opReset
  | .haltingStep => o.free && (!eventWaits s || s.params.ecVsHaltingStep == .lower)
  | .synchronousDebugEvent => o.free && !eventWaits s
  | .asynchronousDebugEvent => o.free || o.debugEventDue

/-- A value owed under a condition; `none` where the contract is broken. -/
def owedIf (c : Bool) (o : Owed) : Option Owed := if c then some o else none

/-- An instruction may complete: its boundary has been called (R9), and no event waits (42_pending.md R80). -/
def mayComplete (s : State) (o : Owed) : Bool := o == .boundaryCalled && !eventWaits s

/-- What is owed after an access or an operation that an instruction of the PE makes: one for each instruction, after
its boundary, before or after the program goes on. -/
def owedAfterAccess (s : State) (o : Owed) : Option Owed :=
  if o = .executed then some .nothing else owedIf (mayComplete s o) .accessed

/-- What is owed after the program has gone on. -/
def owedAfterExecute (s : State) (o : Owed) : Option Owed :=
  if o = .accessed then some .nothing else owedIf (mayComplete s o) .executed

/-- What is owed after a move of the environment from `s`: every exception, return, reset and AArch32 level change owes
its own hook, and an instruction that completes had its boundary. In Debug state it is the debugger that writes
exception registers. -/
def owedAfterMove (m : EnvMove) (s : State) (o : Owed) : Option Owed :=
  match m with
  | .answers _ => some o
  | .writeElRegs _ _ => if s.halted then some o else owedAfterAccess s o
  | .reset _ => some (.hook .opReset)
  | .takeException e => owedIf (mayTakeException e.kind s o) (.hook .opExcEntry)
  | .exceptionReturn => owedIf (mayComplete s o) (.hook (.opExcReturn (illegalNow s)))
  | .changeLevel _ _ _ => owedIf (mayComplete s o) (.hook .opA32StateChange)
  | .haltFor r => owedIf (mayHaltFor r s o) (if o = .hook .opReset then o else .nothing)
  | .resume => owedIf (o == .exited) .nothing
  | .execute _ _ => owedAfterExecute s o

/-- What is owed after a hook that led to `t`: what it yielded to, the exceptions among it where `exception`; nothing
after a halt; `o` where it let the PE go on. -/
def owedAfterHook (exception : Bool) (t : State) (o : Owed) : Owed :=
  if t.halted then .nothing
  else if t.lastOutcome = .yield then .asyncDue exception (asyncDebugEventPending t)
  else o

/-- What is owed after an operation from `s` to `t`: a hook is called once, where it is owed, and none but `OP_RESET` in
Debug state (10_state.md R18). `OP_ISB` and `OP_WRITE_OSECCR` are invoked by instructions of the PE; the debugger
writes `EDECCR` and `EDESR` and can make every read at any time (30_encoding.md R41). -/
def owedAfterOp (i : Instr) (s t : State) (o : Owed) : Option Owed :=
  match i with
  | .opExcEntry =>
    owedIf (o == .hook .opExcEntry && !s.halted) (owedAfterHook (asyncExceptionTakeable t) t .nothing)
  | .opExcReturn f =>
    owedIf (o == .hook (.opExcReturn f) && !s.halted) (owedAfterHook (returnMayYieldToException t) t .nothing)
  | .opReset => owedIf (o == .hook .opReset) (owedAfterHook (asyncExceptionTakeable t) t .nothing)
  | .opA32StateChange => owedIf (o == .hook .opA32StateChange) .nothing
  | .opInsnBoundary =>
    owedIf (o.free && !s.halted) (owedAfterHook (asyncExceptionTakeable t) t .boundaryCalled)
  | .eret => owedIf (mayComplete s o) (owedAfterHook (returnMayYieldToException t) t .nothing)
  | .isb => owedIf (mayComplete s o) .nothing
  | .opExitDebug => owedIf (o == .nothing) .exited
  | .opWriteOseccr _ => owedAfterAccess s o
  | .opIsb => owedAfterAccess s o
  | .opWriteEdeccr _ => some o
  | .opWriteEdesr _ => some o
  | .opReadEdeccr => some o
  | .opReadOseccr => some o
  | .opReadEdesr => some o

/-- The exception another event is, where it is one. -/
def exceptionOf : Rival → Option ExceptionKind
  | .resetCatch => none
  | .softwareStep => some .softwareStep
  | .haltingStep => none
  | .vectorCatchException => some .vectorCatch
  | .synchronousException => some .synchronous
  | .debugEvent => none

/-- Another event is still due after its contention from `s` to `t`: it came first, or it is a Vector Catch exception at
an entry that the hook let go on (R106: "in every configuration"). -/
def rivalStillDue (r : Rival) (i : Instr) (s t : State) : Bool :=
  rivalCameFirst r i s ||
    (r == .vectorCatchException && pointOf i == some .entry && t.lastOutcome == .cont)

/-- What is owed after an operation that contended with another event: that event, if it is still due and is an
exception. -/
def owedAfterContend (r : Rival) (i : Instr) (s t : State) (o : Owed) : Option Owed :=
  (owedAfterOp i s t o).map fun o' =>
    match exceptionOf r with
    | some k => if rivalStillDue r i s t then .exceptionDue k else o'
    | none => o'

/-- What is owed after an input from `s` to `t`. -/
def owedAfter (x : Input) (s t : State) (o : Owed) : Option Owed :=
  match x with
  | .env m => owedAfterMove m s o
  | .op i => owedAfterOp i s t o
  | .contend r i => owedAfterContend r i s t o
  | .insn w =>
    match decode w with
    | .ok i => owedAfterOp i s t o
    | .error _ => none

/-- Run from the state, the inputs all have a meaning and keep the hook contract (R9), from what is owed now. -/
def keepsHookContract : Owed → State → List Input → Bool
  | _, _, [] => true
  | o, s, x :: xs =>
    match runInput x s with
    | .next t =>
      match owedAfter x s t o with
      | some o' => keepsHookContract o' t xs
      | none => false
    | .fault _ => false
    | .refused _ => false

end Safety

end Sys2Proof.Machine
end

