-- ==== Sys2Proof/Certificates/Slice0/Obligations.lean ====
section
/-! DEFINITION. The statements for the provers. A free choice stands in them as `Config.freeChoice s.draws`, of which
nothing is known: such a statement holds whichever alternative is picked, and `pick` reaches every one of them
(`Obligations.ChoiceReachesExactlyTheAlternatives`). -/

open Sys2Proof Sys2Proof.Machine

/-! ### Configurations, words, steps -/

/-- R4: the five well-formed configurations. Which combinations are refused is the spec's decision D2. -/
def Obligations.FeaturesFormFiveConfigurations : Prop :=
  (∀ p2 p8 rme : Bool,
    (Configuration.ofFeatures p2 p8 rme).isSome = true ↔ ((p8 = true → p2 = true) ∧ (rme = true → p2 = true))) ∧
  ∀ c : Configuration, Configuration.ofFeatures c.haveDebugv8p2 c.haveDebugv8p8 c.haveRme = some c

/-- R43, R40: decoding and encoding agree in both directions, over every word. -/
def Obligations.DecodeAgreesWithEncode : Prop :=
  ∀ (i : Instr) (w : Word), encode i = some w ↔ decode w = .ok i

/-- R43: the two words of the table, and words that are not in it. -/
def Obligations.TableWordsDecodeAsTheSpecSays : Prop :=
  decode 0xD69F03E0#32 = .ok .eret ∧ decode 0xD5033FDF#32 = .ok .isb ∧
  decodeTableWord 32 3600745440 = some .eret ∧ decodeTableWord 32 3573759967 = some .isb ∧
  decode 0xD69F03E1#32 = .error (.notInSpec 0xD69F03E1#32) ∧ decodeTableWord 0 0 = none

/-- A step whose next input is an instruction word runs the decoded instruction on the state with that input taken
from the queue; a word outside the spec is refused by name. `withFetchWord` places such a word. The queue of inputs and
the way a program comes to run are the model's choice (log 1); R43 gives the words. -/
def Obligations.StepRunsDecodedInstruction : Prop :=
  (∀ (s : State) (w : Word) (xs : List Input) (i : Instr),
    s.inbox = .insn w :: xs → decode w = .ok i → step s = exec i (withInbox xs s)) ∧
  (∀ (s : State) (w : Word) (xs : List Input),
    s.inbox = .insn w :: xs → decode w = .error (.notInSpec w) → step s = .refused (.wordNotInSpec w)) ∧
  ∀ (s : State) (nbits w : Nat) (i : Instr),
    decodeTableWord nbits w = some i → step (s.withFetchWord nbits w) = exec i s

/-- A step whose next input is an invoked operation runs it, one whose next input is a move of the environment makes
it, a contention contends, and a step with an empty queue changes nothing. The queue is the model's choice (log 1), so
is the idle step (log 27). -/
def Obligations.StepRunsTheNextInput : Prop :=
  (∀ (s : State) (i : Instr) (xs : List Input), s.inbox = .op i :: xs → step s = exec i (withInbox xs s)) ∧
  (∀ (s : State) (m : EnvMove) (xs : List Input),
    s.inbox = .env m :: xs → step s = runEnvMove m (withInbox xs s)) ∧
  (∀ (s : State) (r : Rival) (i : Instr) (xs : List Input),
    s.inbox = .contend r i :: xs → step s = contend r i (withInbox xs s)) ∧
  ∀ s : State, s.inbox = [] → step s = .next s

/-! ### How EDECCR enables the event -/

/-- R13: with `EDECCR = 0x0020` exceptions taken and returns to Non-secure EL1 are enabled, and to no other pair, in
every configuration. -/
def Obligations.AnchorValueEnablesNonSecureEl1Only : Prop :=
  ∀ (p : Params) (lv : Level) (k : EntryKind), k ≠ .reset →
    (catchEnabled p 0x0020#32 lv k = some true ↔ lv = ⟨.nonSecure, 1⟩)

/-- Where the bits of each bank stand. Only `NSE1` (bit 5) is the source's; the other positions are the spec's
decision D6 and the bank of Root its decision D8 (log 5, unsafe). -/
def Obligations.BankBitPositions : Prop :=
  ∀ (v : Word) (n : EL),
    (eBit v ⟨.secure, n⟩ = v.getLsbD n.val ∧ rBit v ⟨.secure, n⟩ = v.getLsbD (8 + n.val)) ∧
    (eBit v ⟨.nonSecure, n⟩ = v.getLsbD (4 + n.val) ∧ rBit v ⟨.nonSecure, n⟩ = v.getLsbD (12 + n.val)) ∧
    (eBit v ⟨.realm, n⟩ = v.getLsbD (16 + n.val) ∧ rBit v ⟨.realm, n⟩ = v.getLsbD (20 + n.val)) ∧
    (eBit v ⟨.root, 3⟩ = v.getLsbD 3 ∧ rBit v ⟨.root, 3⟩ = v.getLsbD 11)

/-- R51, Table H3-7: without `FEAT_Debugv8p2` and `FEAT_RME` the *E* bit decides, for a reset only where resets are
Exception Catch events. -/
def Obligations.OneBitControl : Prop :=
  ∀ (p : Params) (edeccr : Word) (lv : Level), p.cfg = .v8p0 → hasCatchBits p.cfg lv = true →
    catchEnabled p edeccr lv .entry = some (eBit edeccr lv) ∧
    catchEnabled p edeccr lv .ret = some (eBit edeccr lv) ∧
    catchEnabled p edeccr lv .reset = some (eBit edeccr lv && p.resetIsExceptionCatch)

/-- R52, R53, Tables H3-6 and H3-5, row by row (*R* bit, *E* bit): a return is caught in the rows `01` and `10`, an
exception taken in the rows `01` and `11`, and a reset as an exception taken where resets are Exception Catch events.
-/
def Obligations.TwoBitControl : Prop :=
  ∀ (p : Params) (edeccr : Word) (lv : Level), p.cfg.haveDebugv8p2 = true → hasCatchBits p.cfg lv = true →
    catchEnabled p edeccr lv .ret =
      some ((!rBit edeccr lv && eBit edeccr lv) || (rBit edeccr lv && !eBit edeccr lv)) ∧
    catchEnabled p edeccr lv .entry =
      some ((!rBit edeccr lv && eBit edeccr lv) || (rBit edeccr lv && eBit edeccr lv)) ∧
    catchEnabled p edeccr lv .reset =
      some (((!rBit edeccr lv && eBit edeccr lv) || (rBit edeccr lv && eBit edeccr lv)) && p.resetIsExceptionCatch)

/-- R55: a reset is enabled as an exception taken where `RESET_IS_EXCEPTION_CATCH`, and never otherwise; the control
value `10`, return only, does not catch a reset. -/
def Obligations.ResetIsEnabledAsAnExceptionTaken : Prop :=
  ∀ (p : Params) (edeccr : Word) (lv : Level),
    (p.resetIsExceptionCatch = true →
      catchEnabled p edeccr lv .reset = catchEnabled p edeccr lv .entry) ∧
    (p.resetIsExceptionCatch = false → catchEnabled p edeccr lv .reset ≠ some true) ∧
    (p.cfg.haveDebugv8p2 = true → rBit edeccr lv = true → eBit edeccr lv = false →
      catchEnabled p edeccr lv .reset ≠ some true)

/-- R54, R58: `CatchEnabled` refuses exactly the pairs that have no bits. The refusal of (NonSecure, 3) and (Realm, 3)
is the spec's decision D8. -/
def Obligations.CatchEnabledRefusesPairsWithoutBits : Prop :=
  ∀ (p : Params) (edeccr : Word) (lv : Level) (k : EntryKind),
    catchEnabled p edeccr lv k = none ↔
      (lv.el = 3 ∧ (lv.ss = .nonSecure ∨ lv.ss = .realm)) ∨
        ((lv.ss = .realm ∨ lv.ss = .root) ∧ p.cfg.haveRme = false)

/-- R14: `CatchEnabled` reads no unassigned bit. The assigned bits are those of R12's table whose family exists in the
configuration. The assigned positions are D6 (log 5), that the others are never consulted D7. -/
def Obligations.UnassignedBitsAreNeverRead : Prop :=
  ∀ (p : Params) (v w : Word) (lv : Level) (k : EntryKind),
    let assigned : Word :=
      if p.cfg.haveRme then 0x00777F7F#32 else if p.cfg.haveDebugv8p2 then 0x00007F7F#32 else 0x0000007F#32
    v &&& assigned = w &&& assigned → catchEnabled p v lv k = catchEnabled p w lv k

/-! ### Generating the event -/

/-- R61, R62 (`CFG_V8P0`): the PE halts, or an asynchronous exception or debug event that is due comes first. The
event is not remembered in the state it yields. What a halt saves is R107's generalisation, the spec's decision D15;
which member happens is free (log 2), as is a fetch (log 17). -/
def Obligations.EntryHaltsOrYieldsWithoutDebugv8p2 : Prop :=
  ∀ s : State, s.params.cfg = .v8p0 → s.Generated .entry →
    exec .opExcEntry s = .next (pick (.halted (caught true s)) (if asyncDue s then [.yield s] else [])
      (Config.freeChoice s.draws)).conclude

/-- R71 (`CFG_V8P2*`): "the PE halts and enters Debug state before any other asynchronous exception or debug event".
What a halt saves is R107's generalisation, the spec's decision D15; which member happens is free (log 2), as is a
fetch (log 17). -/
def Obligations.EntryHaltsAtOnceWithDebugv8p2 : Prop :=
  ∀ s : State, s.params.cfg = .v8p2 ∨ s.params.cfg = .v8p2Rme → s.Generated .entry →
    exec .opExcEntry s = .next (OpOutcome.halted (caught true s)).conclude

/-- R73, R84, R87 (`CFG_V8P8*`): `EDESR.EC` is set, then the PE halts with the bit 0 or 1, or an asynchronous
exception or debug event that is due comes first with the bit 1. The `Yield` to an asynchronous debug event is R105's.
What a halt saves is R107's generalisation, the spec's decision D15; which member happens is free (log 2), as is a
fetch (log 17). -/
def Obligations.EntrySetsPendingBitWithDebugv8p8 : Prop :=
  ∀ s : State, s.params.cfg = .v8p8 ∨ s.params.cfg = .v8p8Rme → s.Generated .entry →
    exec .opExcEntry s =
      .next (pick (.halted { caught true s with edesrEc := 0#1 })
        (.halted { caught true s with edesrEc := 1#1 } ::
          if asyncDue s then [.yield { s with edesrEc := 1#1 }] else [])
        (Config.freeChoice s.draws)).conclude

/-- R76: a reset that is an Exception Catch event has the outcomes of an exception taken, per configuration; one that
is not continues. (Whether the reset address was fetched is free: R31 speaks of exception entry.) That a reset acts as
an exception taken is the spec's decision D10. What a halt saves is R107's generalisation, the spec's decision D15;
which member happens is free (log 2), as is a fetch (log 17). -/
def Obligations.ResetIsCaughtAsAnExceptionTaken : Prop :=
  (∀ s : State, s.params.cfg = .v8p0 → s.Generated .reset →
    exec .opReset s = .next (pick (.halted (caught false s)) (if asyncDue s then [.yield s] else [])
      (Config.freeChoice s.draws)).conclude) ∧
  (∀ s : State, s.params.cfg = .v8p2 ∨ s.params.cfg = .v8p2Rme → s.Generated .reset →
    exec .opReset s = .next (OpOutcome.halted (caught false s)).conclude) ∧
  (∀ s : State, s.params.cfg = .v8p8 ∨ s.params.cfg = .v8p8Rme → s.Generated .reset →
    exec .opReset s =
      .next (pick (.halted { caught false s with edesrEc := 0#1 })
        (.halted { caught false s with edesrEc := 1#1 } ::
          if asyncDue s then [.yield { s with edesrEc := 1#1 }] else [])
        (Config.freeChoice s.draws)).conclude) ∧
  ∀ s : State, s.params.resetIsExceptionCatch = false → hasCatchBits s.params.cfg s.level = true →
    exec .opReset s = .next (OpOutcome.cont s).conclude

/-- R66, R67, R74: a return-generated event halts the PE with `EDESR.EC` unchanged where it is 0 or does not exist, and
drawn where it is held at 1; an asynchronous exception or debug event that is due may come first. The switch of
90_conflicts.md C4 is off, or the configuration is none of `CFG_V8P2*`, where it has no effect. The draw at a return with
`EDESR.EC` held is D16, the `Yield` in `CFG_V8P2*` D12. What a halt saves is R107's generalisation, the spec's decision
D15; which member happens is free (log 2), as is a fetch (log 17). -/
def Obligations.ReturnHaltsOrYields : Prop :=
  ∀ (illegal : Bool) (s : State),
    (s.params.returnEcBeforeAsyncV8p2 = false ∨ s.params.cfg.haveDebugv8p2 = false ∨
      s.params.cfg.haveDebugv8p8 = true) → s.Generated .ret →
    (s.params.cfg.haveDebugv8p8 = false ∨ s.edesrEc = 0#1 →
      exec (.opExcReturn illegal) s =
        .next (pick (.halted (caught false s)) (if asyncDue s then [.yield s] else [])
          (Config.freeChoice s.draws)).conclude) ∧
    (s.params.cfg.haveDebugv8p8 = true → s.edesrEc = 1#1 →
      exec (.opExcReturn illegal) s =
        .next (pick (.halted { caught false s with edesrEc := 0#1 })
          (.halted { caught false s with edesrEc := 1#1 } :: if asyncDue s then [.yield s] else [])
          (Config.freeChoice s.draws)).conclude)

/-- 90_conflicts.md C4, D12: with the assumed switch on, in `CFG_V8P2*` only an asynchronous debug event may come
before a return-generated halt. What a halt saves is R107's generalisation, the spec's decision D15; which member
happens is free (log 2), as is a fetch (log 17). -/
def Obligations.ReturnBeforeAsynchronousExceptionsWithSwitch : Prop :=
  ∀ (illegal : Bool) (s : State), s.params.returnEcBeforeAsyncV8p2 = true →
    s.params.cfg = .v8p2 ∨ s.params.cfg = .v8p2Rme → s.Generated .ret →
    exec (.opExcReturn illegal) s =
      .next (pick (.halted (caught false s)) (if asyncDebugEventPending s then [.yield s] else [])
        (Config.freeChoice s.draws)).conclude

/-- R60, R75: where no event is generated the hook's only outcome is `Continue(s)`, with nothing changed: `EDECCR` does
not enable it, or halting is prohibited and the event is not one that may be pended: the spec's `EC_WHEN_PROHIBITED =
Ignore`, no `FEAT_Debugv8p8` to pend it with, a return, or an event that is not enabled. That a prohibited event is
ignored is D11 (log 23). -/
def Obligations.HooksContinueWhereNothingIsGenerated : Prop :=
  ∀ (k : EntryKind) (s : State),
    (catchEnabled s.params s.edeccr s.level k = some false ∨
      (haltingAllowed s = false ∧
        (s.params.ecWhenProhibited = .ignore ∨ s.params.cfg.haveDebugv8p8 = false ∨ k = .ret ∨
          catchEnabled s.params s.edeccr s.level k ≠ some true))) →
    (k = .entry → exec .opExcEntry s = .next (OpOutcome.cont s).conclude) ∧
    (k = .reset → exec .opReset s = .next (OpOutcome.cont s).conclude) ∧
    (k = .ret → ∀ illegal, exec (.opExcReturn illegal) s = .next (OpOutcome.cont s).conclude)

/-- R75's alternative `EC_WHEN_PROHIBITED = IgnoreOrPend`: with `FEAT_Debugv8p8` an enabled entry or reset with
halting prohibited may also set `EDESR.EC`; not while the PE is in Debug state already (R103, log 23), and never a
return. -/
def Obligations.ProhibitedEntryMayBePended : Prop :=
  ∀ s : State, s.params.ecWhenProhibited = .ignoreOrPend → s.params.cfg.haveDebugv8p8 = true →
    haltingAllowed s = false → s.halted = false →
    (catchEnabled s.params s.edeccr s.level .entry = some true →
      exec .opExcEntry s = .next (pick (.cont s) [.cont { s with edesrEc := 1#1 }]
        (Config.freeChoice s.draws)).conclude) ∧
    (catchEnabled s.params s.edeccr s.level .reset = some true →
      exec .opReset s = .next (pick (.cont s) [.cont { s with edesrEc := 1#1 }]
        (Config.freeChoice s.draws)).conclude) ∧
    ∀ illegal, exec (.opExcReturn illegal) s = .next (OpOutcome.cont s).conclude

/-- R58: the hooks stop, by name, exactly where `CatchEnabled` is asked about a pair without bits (which pairs is the
spec's decision D8); a boundary does in `CFG_V8P0` only, where it reads the pair's bit (log 6). -/
def Obligations.HooksRefuseExactlyPairsWithoutBits : Prop :=
  ∀ (s : State) (r : Refusal),
    (exec .opExcEntry s = .refused r ↔ r = .noCatchBits s.level ∧ haltingAllowed s = true ∧
      hasCatchBits s.params.cfg s.level = false) ∧
    (exec .opReset s = .refused r ↔ r = .noCatchBits s.level ∧ haltingAllowed s = true ∧
      hasCatchBits s.params.cfg s.level = false) ∧
    (exec .opInsnBoundary s = .refused r ↔ r = .noCatchBits s.level ∧ s.params.cfg = .v8p0 ∧
      haltingAllowed s = true ∧ hasCatchBits s.params.cfg s.level = false) ∧
    ∀ illegal, exec (.opExcReturn illegal) s = .refused r ↔ r = .noCatchBits s.level ∧ haltingAllowed s = true ∧
      hasCatchBits s.params.cfg s.level = false

/-- R65: an illegal exception return, at whatever level, stays at the current level and Security state, and halts the PE
only if `EDECCR` enables the event for an exception return to that level: by `ERET`, and by the environment's own return
with `OP_EXC_RETURN(true)` after it. That the level stays is D19; which returns are illegal is log 18, and log 19 at
EL0. -/
def Obligations.IllegalReturnIsJudgedAtTheCurrentLevel : Prop :=
  ∀ s : State, s.halted = false → illegalNow s = true →
    (∀ t, exec .eret s = .next t → t.level = s.level ∧
      (t.halted = true → catchEnabled s.params s.edeccr s.level .ret = some true)) ∧
    ∃ u, runEnvMove .exceptionReturn s = .next u ∧ u.level = s.level ∧ u.debugState = s.debugState ∧
      u.pc = s.env.eret.pc ∧ u.pstate.rest = s.env.eret.rest ∧
      ∀ t, exec (.opExcReturn true) u = .next t → t.level = s.level ∧
        (t.halted = true → catchEnabled s.params s.edeccr s.level .ret = some true)

/-- R63 (`CFG_V8P0`): a level at which an exception taken generates the event generates it again at a later return to
it, with halting allowed and `EDECCR` as it was: the PE halts, or an asynchronous exception or debug event that is due
comes first (R67). What a halt saves is R107's generalisation, the spec's decision D15;
which member happens is free (log 2), as is a fetch (log 17). -/
def Obligations.ReturnToTrappedLevelGeneratesAgain : Prop :=
  ∀ s u : State, s.params.cfg = .v8p0 → s.Generated .entry →
    u.params = s.params → u.edeccr = s.edeccr → u.level = s.level → haltingAllowed u = true →
    exec (.opExcReturn false) u =
      .next (pick (.halted (caught false u)) (if asyncDue u then [.yield u] else [])
        (Config.freeChoice u.draws)).conclude

/-! ### Instruction boundaries and the pending event -/

/-- R68 (`CFG_V8P0`): while executing at a trapped level with halting allowed both outcomes exist, elsewhere only
`Continue`. The free choice at every boundary is D13. What a halt saves is R107's generalisation, the spec's decision
D15; which member happens is free (log 2), as is a fetch (log 17). -/
def Obligations.BoundaryIsUnpredictableWithoutDebugv8p2 : Prop :=
  ∀ s : State, s.params.cfg = .v8p0 →
    (haltingAllowed s = true → hasCatchBits s.params.cfg s.level = true → eBit s.edeccr s.level = true →
      exec .opInsnBoundary s =
        .next (pick (.cont s) [.halted (caught false s)] (Config.freeChoice s.draws)).conclude) ∧
    (hasCatchBits s.params.cfg s.level = true → eBit s.edeccr s.level = false →
      exec .opInsnBoundary s = .next (OpOutcome.cont s).conclude) ∧
    (haltingAllowed s = false → exec .opInsnBoundary s = .next (OpOutcome.cont s).conclude)

/-- R70 (`CFG_V8P2*`): "An Exception Catch debug event is generated only on exception entry or return": a boundary has
the single outcome `Continue(s)`; a write of `EDECCR` or `OSECCR` leaves the new value for the next entry and, like an
AArch32 change of level, generates nothing, whatever it traps, and the boundary after it neither. That a reset counts
among the entries is the spec's decision D10, that a write takes effect at once D22 (log 22), that `OSECCR` is the same
storage D20 (log 29). -/
def Obligations.NothingIsGeneratedBetweenEntriesWithDebugv8p2 : Prop :=
  ∀ s : State, s.params.cfg = .v8p2 ∨ s.params.cfg = .v8p2Rme →
    exec .opInsnBoundary s = .next (OpOutcome.cont s).conclude ∧
    (∀ (i : Instr) (t : State), exec i s = .next t → s.halted = false → t.halted = true →
      i = .opExcEntry ∨ i = .opReset ∨ (∃ illegal, i = .opExcReturn illegal) ∨ i = .eret) ∧
    (∀ (v : Word) (i : Instr) (t : State), i = .opWriteEdeccr v ∨ i = .opWriteOseccr v → exec i s = .next t →
      t.edeccr = v ∧ t.debugState = s.debugState ∧ exec .opInsnBoundary t = .next (OpOutcome.cont t).conclude) ∧
    ∀ t : State, exec .opA32StateChange s = .next t →
      t.debugState = s.debugState ∧ exec .opInsnBoundary t = .next (OpOutcome.cont t).conclude

/-- R80, R81, R84: with `FEAT_Debugv8p8`, at a boundary where halting is allowed, a held event halts the PE with the bit
0 or 1, or the PE yields, not halted, to an asynchronous exception or debug event that is due, at whatever level and
with whatever `EDECCR`; the event stays pending where halting is prohibited, and with the bit 0 nothing happens. The
`Yield` is R105's, in R80's pseudocode, the draw D16. What a halt saves is R107's generalisation, the spec's decision
D15; which member happens is free (log 2), as is a fetch (log 17). -/
def Obligations.BoundaryTakesThePendingEvent : Prop :=
  ∀ s : State, s.params.cfg.haveDebugv8p8 = true →
    (s.edesrEc = 1#1 → haltingAllowed s = true →
      exec .opInsnBoundary s =
        .next (pick (.halted { caught false s with edesrEc := 0#1 })
          (.halted { caught false s with edesrEc := 1#1 } :: if asyncDue s then [.yield s] else [])
          (Config.freeChoice s.draws)).conclude) ∧
    (s.edesrEc = 1#1 → haltingAllowed s = false →
      exec .opInsnBoundary s = .next (OpOutcome.cont s).conclude) ∧
    (s.edesrEc = 0#1 → exec .opInsnBoundary s = .next (OpOutcome.cont s).conclude)

/-- R80, R127: "`EDECCR` is not consulted again": changing it changes nothing of what a boundary does in `CFG_V8P8*`
beside the register itself. -/
def Obligations.PendingEventIgnoresEdeccr : Prop :=
  ∀ (s t : State) (v : Word), s.params.cfg.haveDebugv8p8 = true →
    exec .opInsnBoundary s = .next t →
    exec .opInsnBoundary { s with edeccr := v } = .next { t with edeccr := v }

/-- R96: `OP_ISB` is `Continue(s)` in every state, and in `CFG_V8P0` at a trapped level the boundary after it still
has both outcomes. The free choice at every boundary is D13. What a halt saves is R107's generalisation, the spec's
decision D15; which member happens is free (log 2), as is a fetch (log 17). -/
def Obligations.IsbDoesNotSettleTheUnpredictableCase : Prop :=
  ∀ s : State, exec .opIsb s = .next (OpOutcome.cont s).conclude ∧
    ∀ t : State, exec .opIsb s = .next t → s.params.cfg = .v8p0 → haltingAllowed s = true →
      hasCatchBits s.params.cfg s.level = true → eBit s.edeccr s.level = true →
      exec .opInsnBoundary t =
        .next (pick (.cont t) [.halted (caught false t)] (Config.freeChoice t.draws)).conclude

/-- R111, R18: no hook does anything while the PE is in Debug state. -/
def Obligations.HooksDoNothingInDebugState : Prop :=
  ∀ s : State, s.halted = true →
    exec .opExcEntry s = .next (OpOutcome.cont s).conclude ∧
    exec .opReset s = .next (OpOutcome.cont s).conclude ∧
    exec .opInsnBoundary s = .next (OpOutcome.cont s).conclude ∧
    ∀ illegal, exec (.opExcReturn illegal) s = .next (OpOutcome.cont s).conclude

/-! ### Register access, exit from Debug state, instructions -/

/-- R90, R91: a write of `EDECCR` or of `OSECCR` changes `EDECCR` and nothing else, in every state. That the effect is
immediate is D22 (log 22), that `OSECCR` is the same storage D20. -/
def Obligations.WritesChangeEdeccrOnly : Prop :=
  ∀ (v : Word) (s : State),
    exec (.opWriteEdeccr v) s = .next (OpOutcome.cont { s with edeccr := v }).conclude ∧
    exec (.opWriteOseccr v) s = .next (OpOutcome.cont { s with edeccr := v }).conclude

/-- R82, R93: a write of `EDESR` with `EC` 1 clears the bit, with `EC` 0 it does nothing; the bit cannot be set by a
write. Without `FEAT_Debugv8p8` the bit does not exist, and a write changes nothing (log 9). The write of 0 is D21. -/
def Obligations.EdesrIsWriteOneToClear : Prop :=
  ∀ (v : Word) (s : State),
    (s.params.cfg.haveDebugv8p8 = true →
      exec (.opWriteEdesr v) s =
        .next (OpOutcome.cont
          { s with edesrEc := if v.getLsbD s.params.edesrEcBit.val then 0#1 else s.edesrEc }).conclude) ∧
    (s.params.cfg.haveDebugv8p8 = false → exec (.opWriteEdesr v) s = .next (OpOutcome.cont s).conclude)

/-- R95, R16, R41: reads of `EDECCR` and `OSECCR` return the 32 stored bits; a read of `EDESR` returns a word whose `EC`
bit is `EDESR.EC` with `FEAT_Debugv8p8`, and some word without it (log 9); no read changes anything else. Reads are D25;
the field that holds what was read is the model's (log 8), as is that `OSECCR` is the same storage (D20, log 29). -/
def Obligations.ReadsReturnTheStoredValue : Prop :=
  ∀ s : State,
    exec .opReadEdeccr s = .next (OpOutcome.cont { s with readData := s.edeccr }).conclude ∧
    exec .opReadOseccr s = .next (OpOutcome.cont { s with readData := s.edeccr }).conclude ∧
    ∃ w : Word, exec .opReadEdesr s = .next (OpOutcome.cont { s with readData := w }).conclude ∧
      (s.params.cfg.haveDebugv8p8 = true → w.getLsbD s.params.edesrEcBit.val = (s.edesrEc == 1#1))

/-- R94, R83: the exit from Debug state clears `Halted`, and `EDESR.EC` where it exists, whatever halted the PE, and
consults no `EDECCR` bit. Outside Debug state the operation is refused (its precondition, log 10). That the exit
generates nothing is D24. -/
def Obligations.ExitFromDebugStateClearsThePendingBit : Prop :=
  ∀ s : State,
    (s.halted = true → s.params.cfg.haveDebugv8p8 = true →
      exec .opExitDebug s = .next (OpOutcome.cont { s with debugState := none, edesrEc := 0#1 }).conclude) ∧
    (s.halted = true → s.params.cfg.haveDebugv8p8 = false →
      exec .opExitDebug s = .next (OpOutcome.cont { s with debugState := none }).conclude) ∧
    (s.halted = false → exec .opExitDebug s = .refused .notInDebugState)

/-- R97: `OP_A32_STATE_CHANGE` does nothing at that moment; from the next boundary R68 applies in `CFG_V8P0`, and in
the other configurations nothing is generated (R70, R72). What a halt saves is R107's generalisation, the spec's
decision D15; which member happens is free (log 2), as is a fetch (log 17). -/
def Obligations.LevelChangeHasNoEffectAtThatMoment : Prop :=
  ∀ s : State, exec .opA32StateChange s = .next (OpOutcome.cont s).conclude ∧
    ∀ t : State, exec .opA32StateChange s = .next t →
      (s.params.cfg = .v8p0 → haltingAllowed s = true → hasCatchBits s.params.cfg s.level = true →
        eBit s.edeccr s.level = true →
        exec .opInsnBoundary t =
          .next (pick (.cont t) [.halted (caught false t)] (Config.freeChoice t.draws)).conclude) ∧
      (s.params.cfg.haveDebugv8p2 = true → s.params.cfg.haveDebugv8p8 = false ∨ s.edesrEc = 0#1 →
        exec .opInsnBoundary t = .next (OpOutcome.cont t).conclude)

/-- The `ISB` instruction (R43, R96) has no effect on the component; the program goes on at the environment's next
address (log 20). In Debug state no program instruction executes (R18, log 21). -/
def Obligations.IsbInstructionOnlyMovesThePc : Prop :=
  ∀ s : State,
    (s.halted = false → exec .isb s = .next (OpOutcome.cont { s with pc := s.env.nextPc }).conclude) ∧
    (s.halted = true → exec .isb s = .refused .inDebugState)

/-- `ERET` (R43, R64): the environment's return, then the hook at the final level. A legal one restores `PC` and
`PSTATE` from `ELR_ELx` and `SPSR_ELx` of the current level, at EL0 from the environment's answers. What the return
restores is G13 and the scenarios' (log 18, log 19). -/
def Obligations.EretReturnsThenCallsTheHook : Prop :=
  ∀ s : State, s.halted = false →
    (illegalNow s = false → ∀ r : ElRegs, elRegs s.pstate.el s = some r →
      exec .eret s = exec (.opExcReturn false)
        { s with pc := r.elr, pstate := r.spsr, currentSs := s.env.eret.ss }) ∧
    (illegalNow s = false → s.pstate.el = 0 →
      exec .eret s = exec (.opExcReturn false)
        { s with pc := s.env.eret.pc, pstate := ⟨0, s.env.eret.rest⟩, currentSs := s.env.eret.ss }) ∧
    (illegalNow s = true →
      exec .eret s = exec (.opExcReturn true)
        { s with pc := s.env.eret.pc, pstate := ⟨s.pstate.el, s.env.eret.rest⟩ })

/-- `ERET` completes in every state that meets the invariant, outside Debug state and at every level: above EL0 with `PC`
and `PSTATE` restored from the registers of the current level (a legal return), at EL0 and for an illegal return as the
environment gives them. What the return restores is G13 and the scenarios' (log 18, log 19). -/
def Obligations.EretCompletesOutsideDebugState : Prop :=
  ∀ s : State, s.Inv → s.halted = false →
    ∃ t : State, exec .eret s = .next t ∧
      (illegalNow s = true →
        t.pc = s.env.eret.pc ∧ t.pstate = ⟨s.pstate.el, s.env.eret.rest⟩ ∧ t.currentSs = s.currentSs) ∧
      (illegalNow s = false → t.currentSs = s.env.eret.ss ∧
        (∀ r : ElRegs, elRegs s.pstate.el s = some r → t.pc = r.elr ∧ t.pstate = r.spsr) ∧
        (s.pstate.el = 0 → t.pc = s.env.eret.pc ∧ t.pstate = ⟨0, s.env.eret.rest⟩)) ∧
      t.params = s.params ∧ t.edeccr = s.edeccr ∧ t.el1 = s.el1 ∧ t.el2 = s.el2 ∧ t.el3 = s.el3 ∧
      t.env = s.env ∧ t.inbox = s.inbox ∧ t.readData = s.readData

/-- R18: in Debug state "the environment executes no program instruction": `ERET` and every other exception return
stops there by name, and at no other place than a pair without bits, where the hook does (log 21). -/
def Obligations.EretIsRefusedOnlyInDebugStateOrWithoutBits : Prop :=
  ∀ s : State,
    (s.halted = true → exec .eret s = .refused .inDebugState ∧
      runEnvMove .exceptionReturn s = .refused .inDebugState) ∧
    (s.halted = false → (∃ t, runEnvMove .exceptionReturn s = .next t) ∧
      ∀ r, exec .eret s = .refused r → ∃ lv, r = .noCatchBits lv ∧ hasCatchBits s.params.cfg lv = false)

/-! ### The halt, and what operations leave alone -/

/-- R107, R18: whichever instruction brings the PE into Debug state, it is one of the four hooks or `ERET`, the reason
is Exception Catch, `DLR_EL0` is the program counter and `DSPSR_EL0` the `PSTATE` of the halt. The registers are
R107's generalisation, D15. -/
def Obligations.HaltSavesPcAndPstate : Prop :=
  ∀ (i : Instr) (s t : State), exec i s = .next t → s.halted = false → t.halted = true →
    t.debugState = some .exceptionCatch ∧ t.dlrEl0 = t.pc ∧ t.dspsrEl0 = t.pstate ∧ t.lastOutcome = .halted ∧
      (i = .opExcEntry ∨ i = .opReset ∨ i = .opInsnBoundary ∨ (∃ illegal, i = .opExcReturn illegal) ∨ i = .eret)

/-- R107: an instruction that does not bring the PE into Debug state leaves `DLR_EL0` and `DSPSR_EL0` alone. -/
def Obligations.DebugLinkChangesOnlyAtAHalt : Prop :=
  ∀ (i : Instr) (s t : State), exec i s = .next t → t.lastOutcome ≠ .halted →
    t.dlrEl0 = s.dlrEl0 ∧ t.dspsrEl0 = s.dspsrEl0 ∧ t.fetchedAtHalt = s.fetchedAtHalt

/-- R18, R94: only `OP_EXIT_DEBUG` leaves Debug state. -/
def Obligations.DebugStateIsLeftOnlyByItsExit : Prop :=
  ∀ (i : Instr) (s t : State), exec i s = .next t → s.halted = true → i ≠ .opExitDebug →
    t.debugState = s.debugState

/-- R6, R20, R21: no operation of the component writes the program counter, `PSTATE`, the Security state, the
exception registers or anything else of the environment. -/
def Obligations.ComponentNeverWritesTheEnvironment : Prop :=
  ∀ (i : Instr) (s t : State), i ≠ .eret → i ≠ .isb → exec i s = .next t → s.SameEnvironment t

/-- R90, R91, R30: only the two writes change `EDECCR`. Only a read changes the model's own field that holds what a read
returned (log 8); that `OSECCR` is the same storage is D20 (log 29). -/
def Obligations.EdeccrChangesOnlyByItsWrites : Prop :=
  ∀ (i : Instr) (s t : State), exec i s = .next t →
    ((∀ v, i ≠ .opWriteEdeccr v ∧ i ≠ .opWriteOseccr v) → t.edeccr = s.edeccr) ∧
    (i ≠ .opReadEdeccr → i ≠ .opReadOseccr → i ≠ .opReadEdesr → t.readData = s.readData)

/-- R86, R17: only an exception taken or a reset sets `EDESR.EC`, and only where the bit exists. That the lists are
complete is D26. -/
def Obligations.PendingBitIsSetOnlyByEntryOrReset : Prop :=
  ∀ (i : Instr) (s t : State), exec i s = .next t → s.edesrEc = 0#1 → t.edesrEc = 1#1 →
    s.params.cfg.haveDebugv8p8 = true ∧ (i = .opExcEntry ∨ i = .opReset)

/-- R86, R82, R83, R84: `EDESR.EC` goes from 1 to 0 only by a write of 1 to it, by the exit from Debug state, or on
entry to Debug state for Exception Catch. That the lists are complete is D26. -/
def Obligations.PendingBitIsClearedOnlyAsListed : Prop :=
  ∀ (i : Instr) (s t : State), exec i s = .next t → s.edesrEc = 1#1 → t.edesrEc = 0#1 →
    (∃ v, i = .opWriteEdesr v ∧ v.getLsbD s.params.edesrEcBit.val = true) ∨ i = .opExitDebug ∨
      (s.halted = false ∧ t.halted = true)

/-- R81, R86, R127: over every step, the environment's moves among them, a pending event of a running PE stays pending
until the PE halts, unless the input is a write of 1 to `EDESR.EC` or a reset. That the lists are complete is D26. -/
def Obligations.PendingEventSurvivesUntilTheHalt : Prop :=
  ∀ (s t : State) (x : Input) (xs : List Input), s.inbox = x :: xs → step s = .next t →
    s.edesrEc = 1#1 → s.halted = false → t.halted = false →
    (∀ v, x = .op (.opWriteEdesr v) ∨ (∃ r, x = .contend r (.opWriteEdesr v)) →
      v.getLsbD s.params.edesrEcBit.val = false) →
    (∀ r, x ≠ .env (.reset r)) →
    t.edesrEc = 1#1

/-- R31: with translation disabled at the target, a halt by `OP_EXC_ENTRY` leaves no fetch from the vector address. -/
def Obligations.NoFetchFromTheVectorBeforeTheHalt : Prop :=
  ∀ s t : State, exec .opExcEntry s = .next t → s.halted = false → t.halted = true →
    translationDisabled s = true → t.fetchedAtHalt = false

/-! ### Exception entry, reset, the source's example -/

/-- R108: taking an exception to EL1, EL2 or EL3 saves the return address, the PE state and the syndrome in the target's
registers, leaves its vector base and the other levels' registers alone, and goes to the handler: `VBAR_ELx + 0x400` for
the synchronous vector of a lower level using AArch64, where that sum fits. The other offsets are not
stated, being presumed (log 15). The EL2 and EL3 instances are G13's; that a target using AArch32 has the same registers
and an address of the environment's is the model's choice (log 15). -/
def Obligations.ExceptionEntryWritesTheTargetsRegisters : Prop :=
  ∀ (e : ExceptionEntry) (s : State) (old : ElRegs), s.halted = false → elRegs e.target.el s = some old →
    s.pstate.el ≤ e.target.el → s.params.has e.target = true →
    ∃ t : State, runEnvMove (.takeException e) s = .next t ∧
      elRegs e.target.el t = some ⟨e.returnAddress, s.pstate, e.syndrome, e.faultAddress, old.vbar⟩ ∧
      (∀ el : EL, el ≠ e.target.el → elRegs el t = elRegs el s) ∧
      t.pstate = ⟨e.target.el, e.handlerRest⟩ ∧ t.level = e.target ∧
      (∀ sp, e.handler = .aarch64 .aarch64 sp → s.pstate.el < e.target.el → e.kind = .synchronous →
        old.vbar.toNat + 0x400 < 2 ^ 64 → t.pc = old.vbar + 0x400#64) ∧
      (∀ pc, e.handler = .aarch32 pc → t.pc = pc) ∧
      t.params = s.params ∧ t.edeccr = s.edeccr ∧ t.edesrEc = s.edesrEc ∧ t.debugState = s.debugState ∧
      t.dlrEl0 = s.dlrEl0 ∧ t.dspsrEl0 = s.dspsrEl0 ∧ t.env = s.env ∧ t.inbox = s.inbox

/-- H3.4.8, 95_test_vectors.md V1 to V8, in every configuration, with `EDECCR = 0x0020`. V1: with halting allowed and
nothing asynchronous due, an exception from Non-secure EL0 to Non-secure EL1 halts the PE at the hook: `DLR_EL0` is
`VBAR_EL1 + 0x400`, `DSPSR_EL0` the handler's PE state, and the exception's own registers are as its entry wrote them.
V2, V3: an `ERET` from a higher level to Non-secure EL1 halts it at the return address. V4 to V8: an entry or return to
any other pair changes nothing, whether halting is allowed or not. What a halt saves beyond V1 is D15, what `ERET`
restores log 18. -/
def Obligations.ExceptionToNonSecureEl1IsCaughtAtItsVector : Prop :=
  (∀ (s : State) (e : ExceptionEntry), s.inbox = [.env (.takeException e), .op .opExcEntry] →
    s.edeccr = 0x0020#32 → s.halted = false → s.level = ⟨.nonSecure, 0⟩ → e.target = ⟨.nonSecure, 1⟩ →
    s.params.has ⟨.nonSecure, 1⟩ = true → (∃ sp, e.handler = .aarch64 .aarch64 sp) → e.kind = .synchronous →
    s.el1.vbar.toNat + 0x400 < 2 ^ 64 →
    s.env.haltingAllowedAt.contains ⟨.nonSecure, 1⟩ = true →
    s.env.asyncExceptionAt.contains ⟨.nonSecure, 1⟩ = false → s.env.asyncDebugEventPending = false →
    ∃ t : State, Sys2Proof.core.run 2 s = .next t ∧ t.debugState = some .exceptionCatch ∧
      t.dlrEl0 = s.el1.vbar + 0x400#64 ∧ t.dspsrEl0 = ⟨1, e.handlerRest⟩ ∧
      t.el1 = ⟨e.returnAddress, s.pstate, e.syndrome, e.faultAddress, s.el1.vbar⟩ ∧ t.edeccr = s.edeccr) ∧
  (∀ (s : State) (r : ElRegs), s.edeccr = 0x0020#32 → s.halted = false → elRegs s.pstate.el s = some r →
    s.pstate.el = 2 ∨ s.pstate.el = 3 → illegalNow s = false → r.spsr.el = 1 → s.env.eret.ss = .nonSecure →
    s.env.haltingAllowedAt.contains ⟨.nonSecure, 1⟩ = true →
    s.env.asyncExceptionAt.contains ⟨.nonSecure, 1⟩ = false → s.env.asyncDebugEventPending = false →
    ∃ t : State, exec .eret s = .next t ∧ t.debugState = some .exceptionCatch ∧ t.level = ⟨.nonSecure, 1⟩ ∧
      t.dlrEl0 = r.elr ∧ t.dspsrEl0 = r.spsr) ∧
  ∀ s : State, s.edeccr = 0x0020#32 → s.level ≠ ⟨.nonSecure, 1⟩ → hasCatchBits s.params.cfg s.level = true →
    exec .opExcEntry s = .next (OpOutcome.cont s).conclude ∧
    ∀ illegal, exec (.opExcReturn illegal) s = .next (OpOutcome.cont s).conclude

/-- R121, R26: a reset entry gives `EDECCR` its reset value or, where the implementation preserves it, leaves it;
`EDESR.EC` its reset value; the PE is at the level it resets into and not in Debug state. -/
def Obligations.ResetEntryUsesTheParameters : Prop :=
  ∀ (r : ResetEntry) (s : State), ∃ t : State, runEnvMove (.reset r) s = .next t ∧
    (s.params.resetPreservesEdeccr = true → t.edeccr = s.edeccr) ∧
    (s.params.resetPreservesEdeccr = false → t.edeccr = s.params.edeccrReset) ∧
    (s.params.cfg.haveDebugv8p8 = true → t.edesrEc = s.params.edesrEcReset) ∧
    t.level = s.params.resetLevel ∧ t.halted = false ∧ t.pc = r.pc ∧ t.params = s.params

/-! ### Priority -/

/-- R101, R102, R103, R106: which of two events due at the same point happens, for every other event. For `ERET` the
point is the return it performs. How two events contend for one point is the model's (log 24), and so is what the halt
for the other debug event writes (log 26, unsafe) with its fetch (log 17): R101 and R103 give the order only. -/
def Obligations.PriorityAgainstOtherEvents : Prop :=
  (∀ (i : Instr) (at_ : Point) (s : State), pointOf i = some at_ → eventDue at_ s = true →
    contend .resetCatch i s = .next (OpOutcome.yield (enterDebugState .resetCatch s)).conclude ∧
    (s.params.ecVsHaltingStep = .lower →
      contend .haltingStep i s = .next (OpOutcome.yield (enterDebugState .haltingStep s)).conclude) ∧
    (s.params.ecVsHaltingStep = .higher → contend .haltingStep i s = exec i s) ∧
    (s.params.ecVsSoftwareStep = .lower → contend .softwareStep i s = .next (OpOutcome.yield s).conclude) ∧
    (s.params.ecVsSoftwareStep = .higher → contend .softwareStep i s = exec i s) ∧
    contend .synchronousException i s = exec i s ∧ contend .debugEvent i s = exec i s ∧
    (at_ = .entry → contend .vectorCatchException i s =
      if Config.freeTurn s.draws then .next (OpOutcome.yield s).conclude else exec i s) ∧
    (at_ ≠ .entry → contend .vectorCatchException i s = exec i s)) ∧
  ∀ (r : Rival) (s : State), s.halted = false →
    (illegalNow s = false → contend r .eret s = contend r (.opExcReturn false) (legalReturn s)) ∧
    (illegalNow s = true → contend r .eret s = contend r (.opExcReturn true) (illegalReturn s))

/-- A due event is one the hook can halt for (R60, R80, R68): with none due nothing is ordered, and the hook alone can
never halt the PE. -/
def Obligations.NothingContendsWhereNoEventIsDue : Prop :=
  ∀ (r : Rival) (i : Instr) (at_ : Point) (s : State), pointOf i = some at_ → eventDue at_ s = false →
    contend r i s = exec i s ∧ ∀ t, exec i s = .next t → t.debugState = s.debugState

/-! ### The whole machine -/

/-- R8: a free choice can pick every member of an outcome set, and nothing else. -/
def Obligations.ChoiceReachesExactlyTheAlternatives : Prop :=
  ∀ (first o : OpOutcome) (rest : List OpOutcome), (∃ n, pick first rest n = o) ↔ o ∈ first :: rest

/-- R26: the state after reset, for every implementation: `EDECCR`, `EDESR.EC` and the level are its parameters,
`Halted` is false; `State.reset` is one of them (log 3). -/
def Obligations.ResetStateIsTheParameters : Prop :=
  (∀ p : Params, (State.resetOf p).params = p ∧ (State.resetOf p).edeccr = p.edeccrReset ∧
    (p.cfg.haveDebugv8p8 = true → (State.resetOf p).edesrEc = p.edesrEcReset) ∧
    (State.resetOf p).level = p.resetLevel ∧ (State.resetOf p).halted = false) ∧
  State.reset = State.resetOf Params.typical

/-- The invariant holds after reset, for every implementation whose parameters fit together. -/
def Obligations.ResetMeetsTheInvariant : Prop :=
  (∀ p : Params, p.wellFormed = true → (State.resetOf p).Inv) ∧ State.reset.Inv

/-- Every step keeps the invariant: the PE is at a pair it has (where returns, moves and level changes may go is log 18,
log 19 and log 25), `EDESR.EC` is inert where it does not exist (R88), and in Debug state `DLR_EL0` and `DSPSR_EL0` hold
where and with which `PSTATE` the PE halted (D15; for a halt by another debug event this is the model's, log 26). -/
def Obligations.EveryStepKeepsTheInvariant : Prop :=
  ∀ s t : State, s.Inv → step s = .next t → t.Inv

/-- Every run keeps the invariant of `State.Inv`; its clauses rest on D15 and on logs 18, 19, 25 and 26, as those of
`EveryStepKeepsTheInvariant`. -/
def Obligations.EveryRunKeepsTheInvariant : Prop :=
  ∀ (n : Nat) (s t : State), s.Inv → Sys2Proof.core.run n s = .next t → t.Inv

/-- From a state that meets the invariant a step answers a next state exactly when its input has a meaning. That the
machine never faults is R8; which inputs have a meaning, and are refused otherwise, is the model's choice: logs 10, 21,
25 and 37, with logs 9 and 19 for the accesses and returns that do have one. -/
def Obligations.StepAnswersExactlyWhereTheInputHasAMeaning : Prop :=
  ∀ s : State, s.Inv → (Safety.stepAllowed s = true ↔ ∃ t, step s = .next t)

/-- R3: "They are fixed for the life of the PE". -/
def Obligations.ConfigurationNeverChanges : Prop :=
  ∀ s t : State, step s = .next t → t.params = s.params

/-- R85 as an obligation of the environment: with `FEAT_Debugv8p8`, the event held and halting allowed, a synchronous
exception or debug event that happens before the next boundary, or after a boundary at which the pending event's turn
came, breaks the hook contract. "other than possibly": a Halting Step or a Software Step exception that comes first
keeps it where the implementation ranks it higher, and only there. The contract as a predicate is the model's (log 33).
-/
def Obligations.PendingEventComesBeforeSynchronousEvents : Prop :=
  ∀ s : State, s.params.cfg.haveDebugv8p8 = true → s.edesrEc = 1#1 → haltingAllowed s = true →
    (∀ m : EnvMove,
      (∃ e, m = .takeException e ∧ (e.kind = .synchronous ∨ e.kind = .vectorCatch)) ∨
        m = .haltFor .synchronousDebugEvent →
      Safety.keepsHookContract .nothing s [.env m] = false ∧
      Safety.keepsHookContract .nothing s [.op .opInsnBoundary, .env m] = false) ∧
    Safety.keepsHookContract .nothing s [.env (.haltFor .haltingStep)] = (s.params.ecVsHaltingStep == .lower) ∧
    ∀ e : ExceptionEntry, e.kind = .softwareStep → Safety.moveAllowed (.takeException e) s = true →
      Safety.keepsHookContract .nothing s [.env (.takeException e)] = (s.params.ecVsSoftwareStep == .lower) ∧
      Safety.keepsHookContract .nothing s [.contend .softwareStep .opInsnBoundary, .env (.takeException e)] =
        (s.params.ecVsSoftwareStep == .lower)
end

