-- ==== Sys2Proof/Laws/State.lean ====
section
/-! SUPPORT. One lemma per field per update of the state, so that no proof unfolds a record update. -/

namespace Sys2Proof.Machine

@[simp] theorem withEc_params (v : Bit) (s : State) : (withEc v s).params = s.params := rfl
@[simp] theorem withEc_edeccr (v : Bit) (s : State) : (withEc v s).edeccr = s.edeccr := rfl
@[simp] theorem withEc_edesrEc (v : Bit) (s : State) : (withEc v s).edesrEc = v := rfl
@[simp] theorem withEc_debugState (v : Bit) (s : State) : (withEc v s).debugState = s.debugState := rfl
@[simp] theorem withEc_dlrEl0 (v : Bit) (s : State) : (withEc v s).dlrEl0 = s.dlrEl0 := rfl
@[simp] theorem withEc_dspsrEl0 (v : Bit) (s : State) : (withEc v s).dspsrEl0 = s.dspsrEl0 := rfl
@[simp] theorem withEc_currentSs (v : Bit) (s : State) : (withEc v s).currentSs = s.currentSs := rfl
@[simp] theorem withEc_pstate (v : Bit) (s : State) : (withEc v s).pstate = s.pstate := rfl
@[simp] theorem withEc_pc (v : Bit) (s : State) : (withEc v s).pc = s.pc := rfl
@[simp] theorem withEc_el1 (v : Bit) (s : State) : (withEc v s).el1 = s.el1 := rfl
@[simp] theorem withEc_el2 (v : Bit) (s : State) : (withEc v s).el2 = s.el2 := rfl
@[simp] theorem withEc_el3 (v : Bit) (s : State) : (withEc v s).el3 = s.el3 := rfl
@[simp] theorem withEc_fetchedAtHalt (v : Bit) (s : State) : (withEc v s).fetchedAtHalt = s.fetchedAtHalt := rfl
@[simp] theorem withEc_env (v : Bit) (s : State) : (withEc v s).env = s.env := rfl
@[simp] theorem withEc_inbox (v : Bit) (s : State) : (withEc v s).inbox = s.inbox := rfl
@[simp] theorem withEc_lastOutcome (v : Bit) (s : State) : (withEc v s).lastOutcome = s.lastOutcome := rfl
@[simp] theorem withEc_readData (v : Bit) (s : State) : (withEc v s).readData = s.readData := rfl
@[simp] theorem withEc_draws (v : Bit) (s : State) : (withEc v s).draws = s.draws := rfl
@[simp] theorem withEc_level (v : Bit) (s : State) : (withEc v s).level = s.level := rfl
@[simp] theorem withEc_halted (v : Bit) (s : State) : (withEc v s).halted = s.halted := rfl

@[simp] theorem withEdeccr_params (v : Word) (s : State) : (withEdeccr v s).params = s.params := rfl
@[simp] theorem withEdeccr_edeccr (v : Word) (s : State) : (withEdeccr v s).edeccr = v := rfl
@[simp] theorem withEdeccr_edesrEc (v : Word) (s : State) : (withEdeccr v s).edesrEc = s.edesrEc := rfl
@[simp] theorem withEdeccr_debugState (v : Word) (s : State) : (withEdeccr v s).debugState = s.debugState := rfl
@[simp] theorem withEdeccr_dlrEl0 (v : Word) (s : State) : (withEdeccr v s).dlrEl0 = s.dlrEl0 := rfl
@[simp] theorem withEdeccr_dspsrEl0 (v : Word) (s : State) : (withEdeccr v s).dspsrEl0 = s.dspsrEl0 := rfl
@[simp] theorem withEdeccr_currentSs (v : Word) (s : State) : (withEdeccr v s).currentSs = s.currentSs := rfl
@[simp] theorem withEdeccr_pstate (v : Word) (s : State) : (withEdeccr v s).pstate = s.pstate := rfl
@[simp] theorem withEdeccr_pc (v : Word) (s : State) : (withEdeccr v s).pc = s.pc := rfl
@[simp] theorem withEdeccr_el1 (v : Word) (s : State) : (withEdeccr v s).el1 = s.el1 := rfl
@[simp] theorem withEdeccr_el2 (v : Word) (s : State) : (withEdeccr v s).el2 = s.el2 := rfl
@[simp] theorem withEdeccr_el3 (v : Word) (s : State) : (withEdeccr v s).el3 = s.el3 := rfl
@[simp] theorem withEdeccr_fetchedAtHalt (v : Word) (s : State) : (withEdeccr v s).fetchedAtHalt = s.fetchedAtHalt := rfl
@[simp] theorem withEdeccr_env (v : Word) (s : State) : (withEdeccr v s).env = s.env := rfl
@[simp] theorem withEdeccr_inbox (v : Word) (s : State) : (withEdeccr v s).inbox = s.inbox := rfl
@[simp] theorem withEdeccr_lastOutcome (v : Word) (s : State) : (withEdeccr v s).lastOutcome = s.lastOutcome := rfl
@[simp] theorem withEdeccr_readData (v : Word) (s : State) : (withEdeccr v s).readData = s.readData := rfl
@[simp] theorem withEdeccr_draws (v : Word) (s : State) : (withEdeccr v s).draws = s.draws := rfl
@[simp] theorem withEdeccr_level (v : Word) (s : State) : (withEdeccr v s).level = s.level := rfl
@[simp] theorem withEdeccr_halted (v : Word) (s : State) : (withEdeccr v s).halted = s.halted := rfl

@[simp] theorem withReadData_params (v : Word) (s : State) : (withReadData v s).params = s.params := rfl
@[simp] theorem withReadData_edeccr (v : Word) (s : State) : (withReadData v s).edeccr = s.edeccr := rfl
@[simp] theorem withReadData_edesrEc (v : Word) (s : State) : (withReadData v s).edesrEc = s.edesrEc := rfl
@[simp] theorem withReadData_debugState (v : Word) (s : State) : (withReadData v s).debugState = s.debugState := rfl
@[simp] theorem withReadData_dlrEl0 (v : Word) (s : State) : (withReadData v s).dlrEl0 = s.dlrEl0 := rfl
@[simp] theorem withReadData_dspsrEl0 (v : Word) (s : State) : (withReadData v s).dspsrEl0 = s.dspsrEl0 := rfl
@[simp] theorem withReadData_currentSs (v : Word) (s : State) : (withReadData v s).currentSs = s.currentSs := rfl
@[simp] theorem withReadData_pstate (v : Word) (s : State) : (withReadData v s).pstate = s.pstate := rfl
@[simp] theorem withReadData_pc (v : Word) (s : State) : (withReadData v s).pc = s.pc := rfl
@[simp] theorem withReadData_el1 (v : Word) (s : State) : (withReadData v s).el1 = s.el1 := rfl
@[simp] theorem withReadData_el2 (v : Word) (s : State) : (withReadData v s).el2 = s.el2 := rfl
@[simp] theorem withReadData_el3 (v : Word) (s : State) : (withReadData v s).el3 = s.el3 := rfl
@[simp] theorem withReadData_fetchedAtHalt (v : Word) (s : State) : (withReadData v s).fetchedAtHalt = s.fetchedAtHalt := rfl
@[simp] theorem withReadData_env (v : Word) (s : State) : (withReadData v s).env = s.env := rfl
@[simp] theorem withReadData_inbox (v : Word) (s : State) : (withReadData v s).inbox = s.inbox := rfl
@[simp] theorem withReadData_lastOutcome (v : Word) (s : State) : (withReadData v s).lastOutcome = s.lastOutcome := rfl
@[simp] theorem withReadData_readData (v : Word) (s : State) : (withReadData v s).readData = v := rfl
@[simp] theorem withReadData_draws (v : Word) (s : State) : (withReadData v s).draws = s.draws := rfl
@[simp] theorem withReadData_level (v : Word) (s : State) : (withReadData v s).level = s.level := rfl
@[simp] theorem withReadData_halted (v : Word) (s : State) : (withReadData v s).halted = s.halted := rfl

@[simp] theorem withInbox_params (xs : List Input) (s : State) : (withInbox xs s).params = s.params := rfl
@[simp] theorem withInbox_edeccr (xs : List Input) (s : State) : (withInbox xs s).edeccr = s.edeccr := rfl
@[simp] theorem withInbox_edesrEc (xs : List Input) (s : State) : (withInbox xs s).edesrEc = s.edesrEc := rfl
@[simp] theorem withInbox_debugState (xs : List Input) (s : State) : (withInbox xs s).debugState = s.debugState := rfl
@[simp] theorem withInbox_dlrEl0 (xs : List Input) (s : State) : (withInbox xs s).dlrEl0 = s.dlrEl0 := rfl
@[simp] theorem withInbox_dspsrEl0 (xs : List Input) (s : State) : (withInbox xs s).dspsrEl0 = s.dspsrEl0 := rfl
@[simp] theorem withInbox_currentSs (xs : List Input) (s : State) : (withInbox xs s).currentSs = s.currentSs := rfl
@[simp] theorem withInbox_pstate (xs : List Input) (s : State) : (withInbox xs s).pstate = s.pstate := rfl
@[simp] theorem withInbox_pc (xs : List Input) (s : State) : (withInbox xs s).pc = s.pc := rfl
@[simp] theorem withInbox_el1 (xs : List Input) (s : State) : (withInbox xs s).el1 = s.el1 := rfl
@[simp] theorem withInbox_el2 (xs : List Input) (s : State) : (withInbox xs s).el2 = s.el2 := rfl
@[simp] theorem withInbox_el3 (xs : List Input) (s : State) : (withInbox xs s).el3 = s.el3 := rfl
@[simp] theorem withInbox_fetchedAtHalt (xs : List Input) (s : State) : (withInbox xs s).fetchedAtHalt = s.fetchedAtHalt := rfl
@[simp] theorem withInbox_env (xs : List Input) (s : State) : (withInbox xs s).env = s.env := rfl
@[simp] theorem withInbox_inbox (xs : List Input) (s : State) : (withInbox xs s).inbox = xs := rfl
@[simp] theorem withInbox_lastOutcome (xs : List Input) (s : State) : (withInbox xs s).lastOutcome = s.lastOutcome := rfl
@[simp] theorem withInbox_readData (xs : List Input) (s : State) : (withInbox xs s).readData = s.readData := rfl
@[simp] theorem withInbox_draws (xs : List Input) (s : State) : (withInbox xs s).draws = s.draws := rfl
@[simp] theorem withInbox_level (xs : List Input) (s : State) : (withInbox xs s).level = s.level := rfl
@[simp] theorem withInbox_halted (xs : List Input) (s : State) : (withInbox xs s).halted = s.halted := rfl

@[simp] theorem enterDebugState_params (r : HaltReason) (s : State) : (enterDebugState r s).params = s.params := rfl
@[simp] theorem enterDebugState_edeccr (r : HaltReason) (s : State) : (enterDebugState r s).edeccr = s.edeccr := rfl
@[simp] theorem enterDebugState_edesrEc (r : HaltReason) (s : State) : (enterDebugState r s).edesrEc = s.edesrEc := rfl
@[simp] theorem enterDebugState_debugState (r : HaltReason) (s : State) : (enterDebugState r s).debugState = some r := rfl
@[simp] theorem enterDebugState_dlrEl0 (r : HaltReason) (s : State) : (enterDebugState r s).dlrEl0 = s.pc := rfl
@[simp] theorem enterDebugState_dspsrEl0 (r : HaltReason) (s : State) : (enterDebugState r s).dspsrEl0 = s.pstate := rfl
@[simp] theorem enterDebugState_currentSs (r : HaltReason) (s : State) : (enterDebugState r s).currentSs = s.currentSs := rfl
@[simp] theorem enterDebugState_pstate (r : HaltReason) (s : State) : (enterDebugState r s).pstate = s.pstate := rfl
@[simp] theorem enterDebugState_pc (r : HaltReason) (s : State) : (enterDebugState r s).pc = s.pc := rfl
@[simp] theorem enterDebugState_el1 (r : HaltReason) (s : State) : (enterDebugState r s).el1 = s.el1 := rfl
@[simp] theorem enterDebugState_el2 (r : HaltReason) (s : State) : (enterDebugState r s).el2 = s.el2 := rfl
@[simp] theorem enterDebugState_el3 (r : HaltReason) (s : State) : (enterDebugState r s).el3 = s.el3 := rfl
@[simp] theorem enterDebugState_fetchedAtHalt (r : HaltReason) (s : State) : (enterDebugState r s).fetchedAtHalt = Config.freeFetch s.draws := rfl
@[simp] theorem enterDebugState_env (r : HaltReason) (s : State) : (enterDebugState r s).env = s.env := rfl
@[simp] theorem enterDebugState_inbox (r : HaltReason) (s : State) : (enterDebugState r s).inbox = s.inbox := rfl
@[simp] theorem enterDebugState_lastOutcome (r : HaltReason) (s : State) : (enterDebugState r s).lastOutcome = s.lastOutcome := rfl
@[simp] theorem enterDebugState_readData (r : HaltReason) (s : State) : (enterDebugState r s).readData = s.readData := rfl
@[simp] theorem enterDebugState_draws (r : HaltReason) (s : State) : (enterDebugState r s).draws = s.draws := rfl
@[simp] theorem enterDebugState_level (r : HaltReason) (s : State) : (enterDebugState r s).level = s.level := rfl
@[simp] theorem enterDebugState_halted (r : HaltReason) (s : State) : (enterDebugState r s).halted = true := rfl

@[simp] theorem caught_params (b : Bool) (s : State) : (caught b s).params = s.params := rfl
@[simp] theorem caught_edeccr (b : Bool) (s : State) : (caught b s).edeccr = s.edeccr := rfl
@[simp] theorem caught_edesrEc (b : Bool) (s : State) : (caught b s).edesrEc = s.edesrEc := rfl
@[simp] theorem caught_debugState (b : Bool) (s : State) : (caught b s).debugState = some .exceptionCatch := rfl
@[simp] theorem caught_dlrEl0 (b : Bool) (s : State) : (caught b s).dlrEl0 = s.pc := rfl
@[simp] theorem caught_dspsrEl0 (b : Bool) (s : State) : (caught b s).dspsrEl0 = s.pstate := rfl
@[simp] theorem caught_currentSs (b : Bool) (s : State) : (caught b s).currentSs = s.currentSs := rfl
@[simp] theorem caught_pstate (b : Bool) (s : State) : (caught b s).pstate = s.pstate := rfl
@[simp] theorem caught_pc (b : Bool) (s : State) : (caught b s).pc = s.pc := rfl
@[simp] theorem caught_el1 (b : Bool) (s : State) : (caught b s).el1 = s.el1 := rfl
@[simp] theorem caught_el2 (b : Bool) (s : State) : (caught b s).el2 = s.el2 := rfl
@[simp] theorem caught_el3 (b : Bool) (s : State) : (caught b s).el3 = s.el3 := rfl
@[simp] theorem caught_fetchedAtHalt (b : Bool) (s : State) : (caught b s).fetchedAtHalt = fetchBeforeHalt b s := rfl
@[simp] theorem caught_env (b : Bool) (s : State) : (caught b s).env = s.env := rfl
@[simp] theorem caught_inbox (b : Bool) (s : State) : (caught b s).inbox = s.inbox := rfl
@[simp] theorem caught_lastOutcome (b : Bool) (s : State) : (caught b s).lastOutcome = s.lastOutcome := rfl
@[simp] theorem caught_readData (b : Bool) (s : State) : (caught b s).readData = s.readData := rfl
@[simp] theorem caught_draws (b : Bool) (s : State) : (caught b s).draws = s.draws := rfl
@[simp] theorem caught_level (b : Bool) (s : State) : (caught b s).level = s.level := rfl
@[simp] theorem caught_halted (b : Bool) (s : State) : (caught b s).halted = true := rfl

@[simp] theorem conclude_params (o : OpOutcome) : (o.conclude).params = o.state.params := rfl
@[simp] theorem conclude_edeccr (o : OpOutcome) : (o.conclude).edeccr = o.state.edeccr := rfl
@[simp] theorem conclude_edesrEc (o : OpOutcome) : (o.conclude).edesrEc = o.state.edesrEc := rfl
@[simp] theorem conclude_debugState (o : OpOutcome) : (o.conclude).debugState = o.state.debugState := rfl
@[simp] theorem conclude_dlrEl0 (o : OpOutcome) : (o.conclude).dlrEl0 = o.state.dlrEl0 := rfl
@[simp] theorem conclude_dspsrEl0 (o : OpOutcome) : (o.conclude).dspsrEl0 = o.state.dspsrEl0 := rfl
@[simp] theorem conclude_currentSs (o : OpOutcome) : (o.conclude).currentSs = o.state.currentSs := rfl
@[simp] theorem conclude_pstate (o : OpOutcome) : (o.conclude).pstate = o.state.pstate := rfl
@[simp] theorem conclude_pc (o : OpOutcome) : (o.conclude).pc = o.state.pc := rfl
@[simp] theorem conclude_el1 (o : OpOutcome) : (o.conclude).el1 = o.state.el1 := rfl
@[simp] theorem conclude_el2 (o : OpOutcome) : (o.conclude).el2 = o.state.el2 := rfl
@[simp] theorem conclude_el3 (o : OpOutcome) : (o.conclude).el3 = o.state.el3 := rfl
@[simp] theorem conclude_fetchedAtHalt (o : OpOutcome) : (o.conclude).fetchedAtHalt = o.state.fetchedAtHalt := rfl
@[simp] theorem conclude_env (o : OpOutcome) : (o.conclude).env = o.state.env := rfl
@[simp] theorem conclude_inbox (o : OpOutcome) : (o.conclude).inbox = o.state.inbox := rfl
@[simp] theorem conclude_lastOutcome (o : OpOutcome) : (o.conclude).lastOutcome = o.tag := rfl
@[simp] theorem conclude_readData (o : OpOutcome) : (o.conclude).readData = o.state.readData := rfl
@[simp] theorem conclude_draws (o : OpOutcome) : (o.conclude).draws = o.state.draws + 1 := rfl
@[simp] theorem conclude_level (o : OpOutcome) : (o.conclude).level = o.state.level := rfl
@[simp] theorem conclude_halted (o : OpOutcome) : (o.conclude).halted = o.state.halted := rfl

@[simp] theorem state_cont (s : State) : (OpOutcome.cont s).state = s := rfl
@[simp] theorem state_halted (s : State) : (OpOutcome.halted s).state = s := rfl
@[simp] theorem state_yield (s : State) : (OpOutcome.yield s).state = s := rfl
@[simp] theorem tag_cont (s : State) : (OpOutcome.cont s).tag = .cont := rfl
@[simp] theorem tag_halted (s : State) : (OpOutcome.halted s).tag = .halted := rfl
@[simp] theorem tag_yield (s : State) : (OpOutcome.yield s).tag = .yield := rfl

@[simp] theorem legalReturn_params (s : State) :
    (legalReturn s).params = s.params := rfl
@[simp] theorem legalReturn_edeccr (s : State) :
    (legalReturn s).edeccr = s.edeccr := rfl
@[simp] theorem legalReturn_edesrEc (s : State) :
    (legalReturn s).edesrEc = s.edesrEc := rfl
@[simp] theorem legalReturn_debugState (s : State) :
    (legalReturn s).debugState = s.debugState := rfl
@[simp] theorem legalReturn_dlrEl0 (s : State) :
    (legalReturn s).dlrEl0 = s.dlrEl0 := rfl
@[simp] theorem legalReturn_dspsrEl0 (s : State) :
    (legalReturn s).dspsrEl0 = s.dspsrEl0 := rfl
@[simp] theorem legalReturn_currentSs (s : State) :
    (legalReturn s).currentSs = s.env.eret.ss := rfl
@[simp] theorem legalReturn_pstate (s : State) :
    (legalReturn s).pstate = (returnState s).pstate := rfl
@[simp] theorem legalReturn_pc (s : State) :
    (legalReturn s).pc = (returnState s).pc := rfl
@[simp] theorem legalReturn_el1 (s : State) :
    (legalReturn s).el1 = s.el1 := rfl
@[simp] theorem legalReturn_el2 (s : State) :
    (legalReturn s).el2 = s.el2 := rfl
@[simp] theorem legalReturn_el3 (s : State) :
    (legalReturn s).el3 = s.el3 := rfl
@[simp] theorem legalReturn_fetchedAtHalt (s : State) :
    (legalReturn s).fetchedAtHalt = s.fetchedAtHalt := rfl
@[simp] theorem legalReturn_env (s : State) :
    (legalReturn s).env = s.env := rfl
@[simp] theorem legalReturn_inbox (s : State) :
    (legalReturn s).inbox = s.inbox := rfl
@[simp] theorem legalReturn_lastOutcome (s : State) :
    (legalReturn s).lastOutcome = s.lastOutcome := rfl
@[simp] theorem legalReturn_readData (s : State) :
    (legalReturn s).readData = s.readData := rfl
@[simp] theorem legalReturn_draws (s : State) :
    (legalReturn s).draws = s.draws := rfl

@[simp] theorem illegalReturn_params (s : State) :
    (illegalReturn s).params = s.params := rfl
@[simp] theorem illegalReturn_edeccr (s : State) :
    (illegalReturn s).edeccr = s.edeccr := rfl
@[simp] theorem illegalReturn_edesrEc (s : State) :
    (illegalReturn s).edesrEc = s.edesrEc := rfl
@[simp] theorem illegalReturn_debugState (s : State) :
    (illegalReturn s).debugState = s.debugState := rfl
@[simp] theorem illegalReturn_dlrEl0 (s : State) :
    (illegalReturn s).dlrEl0 = s.dlrEl0 := rfl
@[simp] theorem illegalReturn_dspsrEl0 (s : State) :
    (illegalReturn s).dspsrEl0 = s.dspsrEl0 := rfl
@[simp] theorem illegalReturn_currentSs (s : State) :
    (illegalReturn s).currentSs = s.currentSs := rfl
@[simp] theorem illegalReturn_pstate (s : State) :
    (illegalReturn s).pstate = ⟨s.pstate.el, s.env.eret.rest⟩ := rfl
@[simp] theorem illegalReturn_pc (s : State) :
    (illegalReturn s).pc = s.env.eret.pc := rfl
@[simp] theorem illegalReturn_el1 (s : State) :
    (illegalReturn s).el1 = s.el1 := rfl
@[simp] theorem illegalReturn_el2 (s : State) :
    (illegalReturn s).el2 = s.el2 := rfl
@[simp] theorem illegalReturn_el3 (s : State) :
    (illegalReturn s).el3 = s.el3 := rfl
@[simp] theorem illegalReturn_fetchedAtHalt (s : State) :
    (illegalReturn s).fetchedAtHalt = s.fetchedAtHalt := rfl
@[simp] theorem illegalReturn_env (s : State) :
    (illegalReturn s).env = s.env := rfl
@[simp] theorem illegalReturn_inbox (s : State) :
    (illegalReturn s).inbox = s.inbox := rfl
@[simp] theorem illegalReturn_lastOutcome (s : State) :
    (illegalReturn s).lastOutcome = s.lastOutcome := rfl
@[simp] theorem illegalReturn_readData (s : State) :
    (illegalReturn s).readData = s.readData := rfl
@[simp] theorem illegalReturn_draws (s : State) :
    (illegalReturn s).draws = s.draws := rfl

@[simp] theorem changeLevel_params (lv : Level) (pc rest : Addr) (s : State) :
    (changeLevel lv pc rest s).params = s.params := rfl
@[simp] theorem changeLevel_edeccr (lv : Level) (pc rest : Addr) (s : State) :
    (changeLevel lv pc rest s).edeccr = s.edeccr := rfl
@[simp] theorem changeLevel_edesrEc (lv : Level) (pc rest : Addr) (s : State) :
    (changeLevel lv pc rest s).edesrEc = s.edesrEc := rfl
@[simp] theorem changeLevel_debugState (lv : Level) (pc rest : Addr) (s : State) :
    (changeLevel lv pc rest s).debugState = s.debugState := rfl
@[simp] theorem changeLevel_dlrEl0 (lv : Level) (pc rest : Addr) (s : State) :
    (changeLevel lv pc rest s).dlrEl0 = s.dlrEl0 := rfl
@[simp] theorem changeLevel_dspsrEl0 (lv : Level) (pc rest : Addr) (s : State) :
    (changeLevel lv pc rest s).dspsrEl0 = s.dspsrEl0 := rfl
@[simp] theorem changeLevel_currentSs (lv : Level) (pc rest : Addr) (s : State) :
    (changeLevel lv pc rest s).currentSs = lv.ss := rfl
@[simp] theorem changeLevel_pstate (lv : Level) (pc rest : Addr) (s : State) :
    (changeLevel lv pc rest s).pstate = ⟨lv.el, rest⟩ := rfl
@[simp] theorem changeLevel_pc (lv : Level) (pc rest : Addr) (s : State) :
    (changeLevel lv pc rest s).pc = pc := rfl
@[simp] theorem changeLevel_el1 (lv : Level) (pc rest : Addr) (s : State) :
    (changeLevel lv pc rest s).el1 = s.el1 := rfl
@[simp] theorem changeLevel_el2 (lv : Level) (pc rest : Addr) (s : State) :
    (changeLevel lv pc rest s).el2 = s.el2 := rfl
@[simp] theorem changeLevel_el3 (lv : Level) (pc rest : Addr) (s : State) :
    (changeLevel lv pc rest s).el3 = s.el3 := rfl
@[simp] theorem changeLevel_fetchedAtHalt (lv : Level) (pc rest : Addr) (s : State) :
    (changeLevel lv pc rest s).fetchedAtHalt = s.fetchedAtHalt := rfl
@[simp] theorem changeLevel_env (lv : Level) (pc rest : Addr) (s : State) :
    (changeLevel lv pc rest s).env = s.env := rfl
@[simp] theorem changeLevel_inbox (lv : Level) (pc rest : Addr) (s : State) :
    (changeLevel lv pc rest s).inbox = s.inbox := rfl
@[simp] theorem changeLevel_lastOutcome (lv : Level) (pc rest : Addr) (s : State) :
    (changeLevel lv pc rest s).lastOutcome = s.lastOutcome := rfl
@[simp] theorem changeLevel_readData (lv : Level) (pc rest : Addr) (s : State) :
    (changeLevel lv pc rest s).readData = s.readData := rfl
@[simp] theorem changeLevel_draws (lv : Level) (pc rest : Addr) (s : State) :
    (changeLevel lv pc rest s).draws = s.draws := rfl

@[simp] theorem haltForOther_params (r : HaltReason) (s : State) :
    (haltForOther r s).params = s.params := rfl
@[simp] theorem haltForOther_edeccr (r : HaltReason) (s : State) :
    (haltForOther r s).edeccr = s.edeccr := rfl
@[simp] theorem haltForOther_edesrEc (r : HaltReason) (s : State) :
    (haltForOther r s).edesrEc = s.edesrEc := rfl
@[simp] theorem haltForOther_debugState (r : HaltReason) (s : State) :
    (haltForOther r s).debugState = some r := rfl
@[simp] theorem haltForOther_dlrEl0 (r : HaltReason) (s : State) :
    (haltForOther r s).dlrEl0 = s.pc := rfl
@[simp] theorem haltForOther_dspsrEl0 (r : HaltReason) (s : State) :
    (haltForOther r s).dspsrEl0 = s.pstate := rfl
@[simp] theorem haltForOther_currentSs (r : HaltReason) (s : State) :
    (haltForOther r s).currentSs = s.currentSs := rfl
@[simp] theorem haltForOther_pstate (r : HaltReason) (s : State) :
    (haltForOther r s).pstate = s.pstate := rfl
@[simp] theorem haltForOther_pc (r : HaltReason) (s : State) :
    (haltForOther r s).pc = s.pc := rfl
@[simp] theorem haltForOther_el1 (r : HaltReason) (s : State) :
    (haltForOther r s).el1 = s.el1 := rfl
@[simp] theorem haltForOther_el2 (r : HaltReason) (s : State) :
    (haltForOther r s).el2 = s.el2 := rfl
@[simp] theorem haltForOther_el3 (r : HaltReason) (s : State) :
    (haltForOther r s).el3 = s.el3 := rfl
@[simp] theorem haltForOther_fetchedAtHalt (r : HaltReason) (s : State) :
    (haltForOther r s).fetchedAtHalt = Config.freeFetch s.draws := rfl
@[simp] theorem haltForOther_env (r : HaltReason) (s : State) :
    (haltForOther r s).env = s.env := rfl
@[simp] theorem haltForOther_inbox (r : HaltReason) (s : State) :
    (haltForOther r s).inbox = s.inbox := rfl
@[simp] theorem haltForOther_lastOutcome (r : HaltReason) (s : State) :
    (haltForOther r s).lastOutcome = s.lastOutcome := rfl
@[simp] theorem haltForOther_readData (r : HaltReason) (s : State) :
    (haltForOther r s).readData = s.readData := rfl
@[simp] theorem haltForOther_draws (r : HaltReason) (s : State) :
    (haltForOther r s).draws = s.draws + 1 := rfl

@[simp] theorem illegalReturn_level (s : State) : (illegalReturn s).level = s.level := rfl
@[simp] theorem illegalReturn_halted (s : State) : (illegalReturn s).halted = s.halted := rfl
@[simp] theorem legalReturn_halted (s : State) : (legalReturn s).halted = s.halted := rfl
@[simp] theorem changeLevel_level (lv : Level) (pc rest : Addr) (s : State) :
    (changeLevel lv pc rest s).level = lv := rfl

/-- The exit from Debug state, field by field where it may change one. -/
theorem leaveDebugState_eq (s : State) : leaveDebugState s =
    { s with debugState := none, edesrEc := if s.params.cfg.haveDebugv8p8 then 0#1 else s.edesrEc } := by
  unfold leaveDebugState clearEcIfPresent
  split <;> rename_i h <;> simp_all [withEc]

/-- A write of `EDESR` changes `EC` alone, where the bit exists and the value has a 1 in its place. -/
theorem writeOneToClear_eq (v : Word) (s : State) : writeOneToClear v s =
    { s with edesrEc := if s.params.cfg.haveDebugv8p8 && ecOfWord s.params v then 0#1 else s.edesrEc } := by
  unfold writeOneToClear clearEcIfPresent
  cases ecOfWord s.params v <;> cases s.params.cfg.haveDebugv8p8 <;> rfl

@[simp] theorem writeOneToClear_params (v : Word) (s : State) :
    (writeOneToClear v s).params = s.params := by rw [writeOneToClear_eq]
@[simp] theorem writeOneToClear_edeccr (v : Word) (s : State) :
    (writeOneToClear v s).edeccr = s.edeccr := by rw [writeOneToClear_eq]
@[simp] theorem writeOneToClear_debugState (v : Word) (s : State) :
    (writeOneToClear v s).debugState = s.debugState := by rw [writeOneToClear_eq]
@[simp] theorem writeOneToClear_dlrEl0 (v : Word) (s : State) :
    (writeOneToClear v s).dlrEl0 = s.dlrEl0 := by rw [writeOneToClear_eq]
@[simp] theorem writeOneToClear_dspsrEl0 (v : Word) (s : State) :
    (writeOneToClear v s).dspsrEl0 = s.dspsrEl0 := by rw [writeOneToClear_eq]
@[simp] theorem writeOneToClear_currentSs (v : Word) (s : State) :
    (writeOneToClear v s).currentSs = s.currentSs := by rw [writeOneToClear_eq]
@[simp] theorem writeOneToClear_pstate (v : Word) (s : State) :
    (writeOneToClear v s).pstate = s.pstate := by rw [writeOneToClear_eq]
@[simp] theorem writeOneToClear_pc (v : Word) (s : State) :
    (writeOneToClear v s).pc = s.pc := by rw [writeOneToClear_eq]
@[simp] theorem writeOneToClear_el1 (v : Word) (s : State) :
    (writeOneToClear v s).el1 = s.el1 := by rw [writeOneToClear_eq]
@[simp] theorem writeOneToClear_el2 (v : Word) (s : State) :
    (writeOneToClear v s).el2 = s.el2 := by rw [writeOneToClear_eq]
@[simp] theorem writeOneToClear_el3 (v : Word) (s : State) :
    (writeOneToClear v s).el3 = s.el3 := by rw [writeOneToClear_eq]
@[simp] theorem writeOneToClear_fetchedAtHalt (v : Word) (s : State) :
    (writeOneToClear v s).fetchedAtHalt = s.fetchedAtHalt := by rw [writeOneToClear_eq]
@[simp] theorem writeOneToClear_env (v : Word) (s : State) :
    (writeOneToClear v s).env = s.env := by rw [writeOneToClear_eq]
@[simp] theorem writeOneToClear_inbox (v : Word) (s : State) :
    (writeOneToClear v s).inbox = s.inbox := by rw [writeOneToClear_eq]
@[simp] theorem writeOneToClear_lastOutcome (v : Word) (s : State) :
    (writeOneToClear v s).lastOutcome = s.lastOutcome := by rw [writeOneToClear_eq]
@[simp] theorem writeOneToClear_readData (v : Word) (s : State) :
    (writeOneToClear v s).readData = s.readData := by rw [writeOneToClear_eq]
@[simp] theorem writeOneToClear_draws (v : Word) (s : State) :
    (writeOneToClear v s).draws = s.draws := by rw [writeOneToClear_eq]
@[simp] theorem writeOneToClear_edesrEc (v : Word) (s : State) : (writeOneToClear v s).edesrEc =
    if s.params.cfg.haveDebugv8p8 && ecOfWord s.params v then 0#1 else s.edesrEc := by rw [writeOneToClear_eq]

@[simp] theorem leaveDebugState_params (s : State) :
    (leaveDebugState s).params = s.params := by rw [leaveDebugState_eq]
@[simp] theorem leaveDebugState_edeccr (s : State) :
    (leaveDebugState s).edeccr = s.edeccr := by rw [leaveDebugState_eq]
@[simp] theorem leaveDebugState_debugState (s : State) :
    (leaveDebugState s).debugState = none := by rw [leaveDebugState_eq]
@[simp] theorem leaveDebugState_dlrEl0 (s : State) :
    (leaveDebugState s).dlrEl0 = s.dlrEl0 := by rw [leaveDebugState_eq]
@[simp] theorem leaveDebugState_dspsrEl0 (s : State) :
    (leaveDebugState s).dspsrEl0 = s.dspsrEl0 := by rw [leaveDebugState_eq]
@[simp] theorem leaveDebugState_currentSs (s : State) :
    (leaveDebugState s).currentSs = s.currentSs := by rw [leaveDebugState_eq]
@[simp] theorem leaveDebugState_pstate (s : State) :
    (leaveDebugState s).pstate = s.pstate := by rw [leaveDebugState_eq]
@[simp] theorem leaveDebugState_pc (s : State) :
    (leaveDebugState s).pc = s.pc := by rw [leaveDebugState_eq]
@[simp] theorem leaveDebugState_el1 (s : State) :
    (leaveDebugState s).el1 = s.el1 := by rw [leaveDebugState_eq]
@[simp] theorem leaveDebugState_el2 (s : State) :
    (leaveDebugState s).el2 = s.el2 := by rw [leaveDebugState_eq]
@[simp] theorem leaveDebugState_el3 (s : State) :
    (leaveDebugState s).el3 = s.el3 := by rw [leaveDebugState_eq]
@[simp] theorem leaveDebugState_fetchedAtHalt (s : State) :
    (leaveDebugState s).fetchedAtHalt = s.fetchedAtHalt := by rw [leaveDebugState_eq]
@[simp] theorem leaveDebugState_env (s : State) :
    (leaveDebugState s).env = s.env := by rw [leaveDebugState_eq]
@[simp] theorem leaveDebugState_inbox (s : State) :
    (leaveDebugState s).inbox = s.inbox := by rw [leaveDebugState_eq]
@[simp] theorem leaveDebugState_lastOutcome (s : State) :
    (leaveDebugState s).lastOutcome = s.lastOutcome := by rw [leaveDebugState_eq]
@[simp] theorem leaveDebugState_readData (s : State) :
    (leaveDebugState s).readData = s.readData := by rw [leaveDebugState_eq]
@[simp] theorem leaveDebugState_draws (s : State) :
    (leaveDebugState s).draws = s.draws := by rw [leaveDebugState_eq]
@[simp] theorem leaveDebugState_edesrEc (s : State) : (leaveDebugState s).edesrEc =
    if s.params.cfg.haveDebugv8p8 then 0#1 else s.edesrEc := by rw [leaveDebugState_eq]

/-- The predicates of 00_scope.md R6 do not depend on `EDESR.EC` or `EDECCR`. -/
@[simp] theorem haltingAllowed_withEc (v : Bit) (s : State) : haltingAllowed (withEc v s) = haltingAllowed s := rfl
@[simp] theorem haltingAllowed_withEdeccr (v : Word) (s : State) :
    haltingAllowed (withEdeccr v s) = haltingAllowed s := rfl
@[simp] theorem asyncDue_withEc (v : Bit) (s : State) : asyncDue (withEc v s) = asyncDue s := rfl
@[simp] theorem asyncDue_withEdeccr (v : Word) (s : State) : asyncDue (withEdeccr v s) = asyncDue s := rfl
@[simp] theorem haltingAllowed_conclude_cont (s : State) :
    haltingAllowed (OpOutcome.cont s).conclude = haltingAllowed s := rfl

/-- A PE in Debug state cannot halt again (00_scope.md R6, D4). -/
theorem haltingAllowed_of_halted (s : State) (h : s.halted = true) : haltingAllowed s = false := by
  simp [haltingAllowed, h]

theorem not_halted_of_haltingAllowed (s : State) (h : haltingAllowed s = true) : s.halted = false := by
  simp_all [haltingAllowed]

end Sys2Proof.Machine
end

