-- ==== Sys2Proof/Laws/Outcomes.lean ====
section
/-! SUPPORT. What the outcome sets hold, and the one inversion lemma of the hooks: everything an outcome of a hook can
be. Later proofs cite these instead of unfolding the hooks. -/

namespace Sys2Proof.Machine

@[simp] theorem toList_only (o : OpOutcome) : (only o).toList = [o] := rfl

theorem mem_addIf (c : Bool) (o x : OpOutcome) (a : Alternatives) :
    x ∈ (a.addIf c o).toList ↔ x ∈ a.toList ∨ (c = true ∧ x = o) := by
  cases c <;> simp [Alternatives.addIf, Alternatives.toList, or_assoc]

/-- What is picked is a member. -/
theorem pick_mem (first : OpOutcome) (rest : List OpOutcome) (n : Nat) : pick first rest n ∈ first :: rest := by
  induction rest generalizing first n with
  | nil => simp [pick]
  | cons o os ih =>
    unfold pick
    split
    · simp
    · exact List.mem_cons_of_mem _ (ih o (n - 1))

/-- A settled outcome set gives the conclusion of one of its members. -/
theorem settle_next (s t : State) (a : Alternatives) (h : settle s a = .next t) :
    ∃ o ∈ a.toList, t = o.conclude := by
  simp only [settle, Host.Outcome.next.injEq] at h
  exact ⟨_, pick_mem a.first a.rest _, h.symm⟩

theorem settleOr_next (s t : State) (x : Except Refusal Alternatives) (h : settleOr s x = .next t) :
    ∃ a, x = .ok a ∧ ∃ o ∈ a.toList, t = o.conclude := by
  cases x with
  | error r => simp [settleOr] at h
  | ok a => exact ⟨a, rfl, settle_next s t a h⟩

theorem settleOr_refused (s : State) (r : Refusal) (x : Except Refusal Alternatives) :
    settleOr s x = .refused r ↔ x = .error r := by
  cases x <;> simp [settleOr, settle]

theorem continueWith_eq (s t : State) : continueWith s t = .next (OpOutcome.cont t).conclude := rfl

/-- The members of `Halt`'s outcome set: halted, with `EDESR.EC` kept, or drawn where the bit exists. -/
theorem mem_haltAlternatives (ec : EcOnHalt) (b : Bool) (s : State) (o : OpOutcome)
    (h : o ∈ (haltAlternatives ec b s).toList) :
    o = .halted (caught b s) ∨ (s.params.cfg.haveDebugv8p8 = true ∧ ec = .draw ∧
      ∃ v, o = .halted (withEc v (caught b s))) := by
  unfold haltAlternatives at h
  split at h
  · rename_i hc
    simp only [Bool.and_eq_true, beq_iff_eq] at hc
    simp only [Alternatives.toList, List.mem_cons, List.not_mem_nil, or_false] at h
    rcases h with rfl | rfl
    · exact .inr ⟨hc.1, hc.2, _, rfl⟩
    · exact .inr ⟨hc.1, hc.2, _, rfl⟩
  · exact .inl (by simpa using h)

/-- Everything an outcome of a hook can be. `sets` says whether the hook is one that may set `EDESR.EC`. -/
inductive HookOutcome (sets : Bool) (s : State) : OpOutcome → Prop
  /-- nothing is changed -/
  | cont : HookOutcome sets s (.cont s)
  /-- the event is pended while halting is prohibited (41_generation.md R75) -/
  | pended : sets = true → s.params.cfg.haveDebugv8p8 = true → s.halted = false →
      HookOutcome sets s (.cont (withEc 1#1 s))
  /-- the PE halts, `EDESR.EC` as it was -/
  | halted (b : Bool) : haltingAllowed s = true → HookOutcome sets s (.halted (caught b s))
  /-- the PE halts, `EDESR.EC` drawn: after an entry or with the bit held (42_pending.md R84) -/
  | drawn (b : Bool) (v : Bit) : haltingAllowed s = true → s.params.cfg.haveDebugv8p8 = true →
      (sets = true ∨ s.edesrEc = 1#1) → HookOutcome sets s (.halted (withEc v (caught b s)))
  /-- something asynchronous comes first -/
  | yield : haltingAllowed s = true → HookOutcome sets s (.yield s)
  /-- something asynchronous comes first, the event held in `EDESR.EC` (41_generation.md R73) -/
  | yieldHeld : haltingAllowed s = true → sets = true → s.params.cfg.haveDebugv8p8 = true →
      HookOutcome sets s (.yield (withEc 1#1 s))

theorem caught_withEc (b : Bool) (v : Bit) (s : State) : caught b (withEc v s) = withEc v (caught b s) := rfl

theorem withEc_withEc (v w : Bit) (s : State) : withEc v (withEc w s) = withEc v s := rfl

/-- The common check in one line: generated, not generated, or a pair without bits. -/
theorem commonCheck_cases (k : EntryKind) (s : State) :
    (commonCheck k s = .ok true ∧ s.Generated k) ∨
    (commonCheck k s = .ok false ∧ ¬ s.Generated k) ∨
    (commonCheck k s = .error (.noCatchBits s.level) ∧ haltingAllowed s = true ∧
      hasCatchBits s.params.cfg s.level = false) := by
  unfold commonCheck State.Generated
  by_cases ha : haltingAllowed s = true
  · unfold catchEnabled
    by_cases hb : hasCatchBits s.params.cfg s.level = true
    · cases hc : catchHit s.params s.edeccr s.level k <;> simp [ha, hb]
    · simp_all
  · simp_all

theorem mem_notGenerated (k : EntryKind) (s : State) (o : OpOutcome) (h : o ∈ (notGenerated k s).toList) :
    HookOutcome (k != .ret) s o := by
  rw [notGenerated, mem_addIf] at h
  rcases h with h | ⟨hc, rfl⟩
  · simp only [toList_only, List.mem_singleton] at h
    exact h ▸ .cont
  · simp only [mayPendProhibited, Bool.and_eq_true, Bool.not_eq_true'] at hc
    exact .pended hc.1.1.1.2 hc.1.1.1.1.2 hc.1.2

theorem mem_entryAlternatives (b : Bool) (s : State) (o : OpOutcome) (ha : haltingAllowed s = true)
    (h : o ∈ (entryAlternatives b s).toList) : HookOutcome true s o := by
  unfold entryAlternatives at h
  split at h
  · rename_i h8
    rw [mem_addIf] at h
    rcases h with h | ⟨-, rfl⟩
    · rcases mem_haltAlternatives _ _ _ _ h with rfl | ⟨-, -, v, rfl⟩
      · exact .drawn b 1#1 ha h8 (.inl rfl)
      · exact .drawn b v ha h8 (.inl rfl)
    · exact .yieldHeld ha rfl h8
  · rename_i h8
    have keep : ∀ x, x ∈ (haltAlternatives .draw b s).toList → HookOutcome true s x := by
      intro x hx
      rcases mem_haltAlternatives _ _ _ _ hx with rfl | ⟨h, -, -⟩
      · exact .halted b ha
      · exact absurd h h8
    split at h
    · exact keep o h
    · rw [mem_addIf] at h
      rcases h with h | ⟨-, rfl⟩
      · exact keep o h
      · exact .yield ha

theorem mem_entryHook (k : EntryKind) (s : State) (a : Alternatives) (o : OpOutcome)
    (hk : entryHook k s = .ok a) (h : o ∈ a.toList) : HookOutcome true s o := by
  unfold entryHook at hk
  rcases commonCheck_cases k s with ⟨hc, hg⟩ | ⟨hc, -⟩ | ⟨hc, -⟩ <;> simp only [hc] at hk
  · cases hk
    exact mem_entryAlternatives _ s o hg.1 h
  · cases hk
    rw [notGenerated, mem_addIf] at h
    rcases h with h | ⟨hp, rfl⟩
    · simp only [toList_only, List.mem_singleton] at h
      exact h ▸ .cont
    · simp only [mayPendProhibited, Bool.and_eq_true, Bool.not_eq_true'] at hp
      exact .pended rfl hp.1.1.1.1.2 hp.1.2
  · cases hk

theorem mem_returnHook (s : State) (a : Alternatives) (o : OpOutcome)
    (hk : returnHook s = .ok a) (h : o ∈ a.toList) : HookOutcome false s o := by
  unfold returnHook at hk
  rcases commonCheck_cases .ret s with ⟨hc, hg⟩ | ⟨hc, -⟩ | ⟨hc, -⟩ <;> simp only [hc] at hk
  · cases hk
    rw [returnAlternatives, mem_addIf] at h
    rcases h with h | ⟨-, rfl⟩
    · rcases mem_haltAlternatives _ _ _ _ h with rfl | ⟨h8, hd, v, rfl⟩
      · exact .halted false hg.1
      · refine .drawn false v hg.1 h8 (.inr ?_)
        by_cases he : ecHeld s = true
        · simpa [ecHeld, h8] using he
        · simp [he] at hd
    · exact .yield hg.1
  · cases hk
    exact mem_notGenerated .ret s o h
  · cases hk

theorem mem_boundaryHook (s : State) (a : Alternatives) (o : OpOutcome)
    (hk : boundaryHook s = .ok a) (h : o ∈ a.toList) : HookOutcome false s o := by
  unfold boundaryHook at hk
  split at hk
  · rename_i h8
    cases hk
    unfold pendingAlternatives at h
    split at h
    · rename_i hp
      simp only [Bool.and_eq_true] at hp
      rw [mem_addIf] at h
      rcases h with h | ⟨-, rfl⟩
      · rcases mem_haltAlternatives _ _ _ _ h with rfl | ⟨-, -, v, rfl⟩
        · exact .halted false hp.2
        · exact .drawn false v hp.2 h8 (.inr (by simpa [ecHeld, h8] using hp.1))
      · exact .yield hp.2
    · simp only [toList_only, List.mem_singleton] at h
      exact h ▸ .cont
  · split at hk
    · cases hk
      simp only [toList_only, List.mem_singleton] at h
      exact h ▸ .cont
    · unfold unpredictableAlternatives at hk
      split at hk
      · rename_i ha
        split at hk
        · cases hk
          split at h
          · simp only [Alternatives.toList, List.mem_cons, List.not_mem_nil, or_false] at h
            rcases h with rfl | rfl
            · exact .cont
            · exact .halted false ha
          · simp only [toList_only, List.mem_singleton] at h
            exact h ▸ .cont
        · cases hk
      · cases hk
        simp only [toList_only, List.mem_singleton] at h
        exact h ▸ .cont

/-- What a hook's outcome leaves alone: everything but `EDESR.EC`, Debug state and what the halt writes. -/
theorem HookOutcome.frame {sets : Bool} {s : State} {o : OpOutcome} (h : HookOutcome sets s o) :
    s.SameEnvironment o.state ∧ o.state.edeccr = s.edeccr ∧ o.state.readData = s.readData := by
  cases h <;> exact ⟨⟨rfl, rfl, rfl, rfl, rfl, rfl, rfl, rfl, rfl⟩, rfl, rfl⟩

/-- A hook's next state is the conclusion of one of the outcomes above. -/
theorem exec_hook_next (i : Instr) (s t : State) (h : exec i s = .next t) :
    (i = .opExcEntry ∨ i = .opReset → ∃ o, HookOutcome true s o ∧ t = o.conclude) ∧
    ((∃ f, i = .opExcReturn f) ∨ i = .opInsnBoundary → ∃ o, HookOutcome false s o ∧ t = o.conclude) := by
  refine ⟨?_, ?_⟩
  · rintro (rfl | rfl)
    all_goals
      obtain ⟨a, ha, o, ho, rfl⟩ := settleOr_next _ _ _ h
      exact ⟨o, mem_entryHook _ s a o ha ho, rfl⟩
  · rintro (⟨f, rfl⟩ | rfl)
    · obtain ⟨a, ha, o, ho, rfl⟩ := settleOr_next _ _ _ h
      exact ⟨o, mem_returnHook s a o ha ho, rfl⟩
    · obtain ⟨a, ha, o, ho, rfl⟩ := settleOr_next _ _ _ h
      exact ⟨o, mem_boundaryHook s a o ha ho, rfl⟩

/-- The two results of an exception return. -/
theorem exceptionReturn_ok (s : State) (r : Returned) (h : exceptionReturn s = .ok r) :
    s.halted = false ∧ ((illegalNow s = true ∧ r = ⟨illegalReturn s, true⟩) ∨
      (illegalNow s = false ∧ r = ⟨legalReturn s, false⟩)) := by
  unfold exceptionReturn at h
  split at h
  · cases h
  · rename_i hh
    refine ⟨by simpa using hh, ?_⟩
    cases hi : illegalNow s <;> simp only [hi] at h <;> cases h
    · exact .inr ⟨rfl, rfl⟩
    · exact .inl ⟨rfl, rfl⟩

/-- An exception return changes where the PE is, and nothing of the component or of Debug state. -/
theorem exceptionReturn_frame (s : State) (r : Returned) (h : exceptionReturn s = .ok r) :
    r.state.params = s.params ∧ r.state.edeccr = s.edeccr ∧ r.state.edesrEc = s.edesrEc ∧
      r.state.debugState = s.debugState ∧ r.state.dlrEl0 = s.dlrEl0 ∧ r.state.dspsrEl0 = s.dspsrEl0 ∧
      r.state.fetchedAtHalt = s.fetchedAtHalt ∧ r.state.readData = s.readData ∧ r.state.draws = s.draws := by
  obtain ⟨-, ⟨-, rfl⟩ | ⟨-, rfl⟩⟩ := exceptionReturn_ok s r h <;> exact ⟨rfl, rfl, rfl, rfl, rfl, rfl, rfl, rfl, rfl⟩

/-- Outside Debug state an exception return always has a result. -/
theorem exceptionReturn_running (s : State) (h : s.halted = false) : ∃ r, exceptionReturn s = .ok r := by
  simp [exceptionReturn, h]

/-- `ERET` is the environment's return, then a hook outcome at the state after it. -/
theorem exec_eret_next (s t : State) (h : exec .eret s = .next t) :
    ∃ r o, exceptionReturn s = .ok r ∧ HookOutcome false r.state o ∧ t = o.conclude := by
  change execEret s = _ at h
  unfold execEret at h
  split at h
  · rename_i r hr
    obtain ⟨a, ha, o, ho, rfl⟩ := settleOr_next _ _ _ h
    exact ⟨r, o, hr, mem_returnHook _ a o ha ho, rfl⟩
  · cases h

/-- The operations that are not hooks, in one table of their next states. -/
theorem exec_plain_next (i : Instr) (s t : State) (h : exec i s = .next t) :
    match i with
    | .opExcEntry => True
    | .opExcReturn _ => True
    | .opReset => True
    | .opInsnBoundary => True
    | .opWriteEdeccr v => t = (OpOutcome.cont (withEdeccr v s)).conclude
    | .opWriteOseccr v => t = (OpOutcome.cont (withEdeccr v s)).conclude
    | .opWriteEdesr v => t = (OpOutcome.cont (writeOneToClear v s)).conclude
    | .opReadEdeccr => t = (OpOutcome.cont (withReadData s.edeccr s)).conclude
    | .opReadOseccr => t = (OpOutcome.cont (withReadData s.edeccr s)).conclude
    | .opReadEdesr => ∃ w, t = (OpOutcome.cont (withReadData w s)).conclude
    | .opExitDebug => s.halted = true ∧ t = (OpOutcome.cont (leaveDebugState s)).conclude
    | .opIsb => t = (OpOutcome.cont s).conclude
    | .opA32StateChange => t = (OpOutcome.cont s).conclude
    | .eret => True
    | .isb => s.halted = false ∧ t = (OpOutcome.cont { s with pc := s.env.nextPc }).conclude := by
  cases i with
  | opExcEntry => trivial
  | opExcReturn _ => trivial
  | opReset => trivial
  | opInsnBoundary => trivial
  | opWriteEdeccr v => exact (Host.Outcome.next.inj h).symm
  | opWriteOseccr v => exact (Host.Outcome.next.inj h).symm
  | opWriteEdesr v => exact (Host.Outcome.next.inj h).symm
  | opReadEdeccr => exact (Host.Outcome.next.inj h).symm
  | opReadOseccr => exact (Host.Outcome.next.inj h).symm
  | opReadEdesr => exact ⟨_, (Host.Outcome.next.inj h).symm⟩
  | opExitDebug =>
    change execOpExitDebug s = _ at h
    unfold execOpExitDebug at h
    split at h
    · exact ⟨‹_›, (Host.Outcome.next.inj h).symm⟩
    · cases h
  | opIsb => exact (Host.Outcome.next.inj h).symm
  | opA32StateChange => exact (Host.Outcome.next.inj h).symm
  | eret => trivial
  | isb =>
    change execIsb s = _ at h
    unfold execIsb at h
    split at h
    · cases h
    · rename_i hh
      exact ⟨by simpa using hh, (Host.Outcome.next.inj h).symm⟩

end Sys2Proof.Machine
end

