-- ==== Sys2Proof/Laws/PerInstr.lean ====
section
/-! SUPPORT. Statements made per instruction, one lemma per constructor. -/

namespace Sys2Proof.Laws.WordRoundTrip

/-- The word of an instruction, where it has one, decodes to it, and the instruction exists in every configuration. -/
def Statement (i : Instr) : Prop :=
  ∀ w, encode i = some w → decode w = .ok i ∧ ∀ c, i.wellFormed c = true

theorem opExcEntry : Statement .opExcEntry := by intro w h; cases h
theorem opExcReturn (illegal : Bool) : Statement (.opExcReturn illegal) := by intro w h; cases h
theorem opReset : Statement .opReset := by intro w h; cases h
theorem opInsnBoundary : Statement .opInsnBoundary := by intro w h; cases h
theorem opWriteEdeccr (v : Word) : Statement (.opWriteEdeccr v) := by intro w h; cases h
theorem opWriteOseccr (v : Word) : Statement (.opWriteOseccr v) := by intro w h; cases h
theorem opWriteEdesr (v : Word) : Statement (.opWriteEdesr v) := by intro w h; cases h
theorem opReadEdeccr : Statement .opReadEdeccr := by intro w h; cases h
theorem opReadOseccr : Statement .opReadOseccr := by intro w h; cases h
theorem opReadEdesr : Statement .opReadEdesr := by intro w h; cases h
theorem opExitDebug : Statement .opExitDebug := by intro w h; cases h
theorem opIsb : Statement .opIsb := by intro w h; cases h
theorem opA32StateChange : Statement .opA32StateChange := by intro w h; cases h
theorem eret : Statement .eret := by intro w h; cases h; exact ⟨by decide, fun _ => rfl⟩
theorem isb : Statement .isb := by intro w h; cases h; exact ⟨by decide, fun _ => rfl⟩

end Sys2Proof.Laws.WordRoundTrip
end

