-- ==== Sys2Proof/Laws/Steps.lean ====
section
/-! SUPPORT. What an instruction, a contention, a move of the environment and a step can do: one inversion lemma each,
which later proofs cite instead of unfolding the step function. -/

namespace Sys2Proof.Machine

theorem addIf_only (c : Bool) (o x : OpOutcome) : (only x).addIf c o = ⟨x, if c then [o] else []⟩ := by
  cases c <;> rfl

theorem addIf_pair (c : Bool) (o x y : OpOutcome) :
    Alternatives.addIf c o ⟨x, [y]⟩ = ⟨x, y :: if c then [o] else []⟩ := by
  cases c <;> rfl

/-- A generated event makes the common check answer `Generated`. -/
theorem commonCheck_of_generated {k : EntryKind} {s : State} (h : s.Generated k) : commonCheck k s = .ok true := by
  rcases commonCheck_cases k s with ⟨h1, -⟩ | ⟨-, h2⟩ | ⟨-, -, h3⟩
  · exact h1
  · exact absurd h h2
  · simpa [catchEnabled, h3] using h.2

/-- An implemented pair has bits, where the parameters fit together. -/
theorem hasCatchBits_of_has {p : Params} {lv : Level} (hp : p.wellFormed = true) (h : p.has lv = true) :
    hasCatchBits p.cfg lv = true := by
  simp only [Params.wellFormed, Bool.and_eq_true, List.all_eq_true] at hp
  exact hp.1 lv (by simpa [Params.has] using h)

/-- At a pair that has bits no hook is refused. -/
theorem hooks_answer (s : State) (hb : hasCatchBits s.params.cfg s.level = true) :
    (∀ k, ∃ a, entryHook k s = .ok a) ∧ (∃ a, returnHook s = .ok a) ∧ ∃ a, boundaryHook s = .ok a := by
  refine ⟨fun k => ?_, ?_, ?_⟩
  · unfold entryHook
    rcases commonCheck_cases k s with ⟨h, -⟩ | ⟨h, -⟩ | ⟨-, -, h⟩
    · simp [h]
    · simp [h]
    · simp [hb] at h
  · unfold returnHook
    rcases commonCheck_cases .ret s with ⟨h, -⟩ | ⟨h, -⟩ | ⟨-, -, h⟩
    · simp [h]
    · simp [h]
    · simp [hb] at h
  · unfold boundaryHook unpredictableAlternatives
    rw [hb]
    split
    · exact ⟨_, rfl⟩
    · split
      · exact ⟨_, rfl⟩
      · split <;> exact ⟨_, rfl⟩

theorem settleOr_answers (s : State) {x : Except Refusal Alternatives} {a : Alternatives} (h : x = .ok a) :
    ∃ t, settleOr s x = .next t := by
  subst h
  exact ⟨_, rfl⟩

/-- Every level but EL0 has its registers. -/
theorem elRegs_above_el0 {el : EL} (s : State) (h : el ≠ 0) : ∃ r, elRegs el s = some r := by
  unfold elRegs
  fin_cases el <;> simp_all

/-- The three shapes of an instruction that answers a next state: a hook, `ERET`, or an operation of
`exec_plain_next`'s table. -/
theorem exec_next_cases (i : Instr) (s t : State) (h : exec i s = .next t) :
    (∃ sets o, HookOutcome sets s o ∧ t = o.conclude ∧
      (((i = .opExcEntry ∨ i = .opReset) ∧ sets = true) ∨
        (((∃ f, i = .opExcReturn f) ∨ i = .opInsnBoundary) ∧ sets = false))) ∨
    i = .eret ∨
    (i ≠ .eret ∧ i ≠ .opExcEntry ∧ i ≠ .opReset ∧ i ≠ .opInsnBoundary ∧ ∀ f, i ≠ .opExcReturn f) := by
  cases i with
  | opExcEntry =>
    obtain ⟨o, h1, h2⟩ := (exec_hook_next _ _ _ h).1 (.inl rfl)
    exact .inl ⟨_, o, h1, h2, .inl ⟨.inl rfl, rfl⟩⟩
  | opReset =>
    obtain ⟨o, h1, h2⟩ := (exec_hook_next _ _ _ h).1 (.inr rfl)
    exact .inl ⟨_, o, h1, h2, .inl ⟨.inr rfl, rfl⟩⟩
  | opExcReturn f =>
    obtain ⟨o, h1, h2⟩ := (exec_hook_next _ _ _ h).2 (.inl ⟨f, rfl⟩)
    exact .inl ⟨_, o, h1, h2, .inr ⟨.inl ⟨f, rfl⟩, rfl⟩⟩
  | opInsnBoundary =>
    obtain ⟨o, h1, h2⟩ := (exec_hook_next _ _ _ h).2 (.inr rfl)
    exact .inl ⟨_, o, h1, h2, .inr ⟨.inr rfl, rfl⟩⟩
  | eret => exact .inr (.inl rfl)
  | opWriteEdeccr v => exact .inr (.inr (by simp))
  | opWriteOseccr v => exact .inr (.inr (by simp))
  | opWriteEdesr v => exact .inr (.inr (by simp))
  | opReadEdeccr => exact .inr (.inr (by simp))
  | opReadOseccr => exact .inr (.inr (by simp))
  | opReadEdesr => exact .inr (.inr (by simp))
  | opExitDebug => exact .inr (.inr (by simp))
  | opIsb => exact .inr (.inr (by simp))
  | opA32StateChange => exact .inr (.inr (by simp))
  | isb => exact .inr (.inr (by simp))

/-- The other event comes first only at a point where an Exception Catch event is due. -/
theorem eventDue_of_rivalComesFirst (r : Rival) (i : Instr) (s : State) (h : rivalComesFirst r i s = true) :
    ∃ a, pointOf i = some a ∧ eventDue a s = true := by
  unfold rivalComesFirst at h
  split at h
  · cases h
  · rename_i a ha
    simp only [Bool.and_eq_true] at h
    exact ⟨a, ha, h.1⟩

/-- The point and the state at which another event contends with the instruction: a hook's own, at the present state, or
for `ERET` the return's, at the state the return leaves. -/
def ContendsAt (i : Instr) (a : Point) (s u : State) : Prop :=
  (pointOf i = some a ∧ u = s) ∨ (i = .eret ∧ a = .ret ∧ ∃ f, exceptionReturn s = .ok ⟨u, f⟩)

/-- A contention runs the instruction, or the other event happens where an Exception Catch event is due. -/
theorem contend_cases (r : Rival) (i : Instr) (s : State) :
    contend r i s = exec i s ∨
    ∃ u a, ContendsAt i a s u ∧ eventDue a u = true ∧ contend r i s = rivalFirst r u := by
  unfold contend
  split
  · rename_i hi
    subst hi
    change contendEret r s = execEret s ∨ _
    unfold contendEret execEret
    cases hr : exceptionReturn s with
    | error e => exact .inl rfl
    | ok ret =>
      dsimp only [contendAt]
      split
      · rename_i hf
        obtain ⟨a, ha, hd⟩ := eventDue_of_rivalComesFirst _ _ _ hf
        exact .inr ⟨ret.state, a, .inr ⟨rfl, (Option.some.inj ha).symm, ret.illegal, hr⟩, hd, rfl⟩
      · exact .inl rfl
  · unfold contendAt
    split
    · rename_i hf
      obtain ⟨a, ha, hd⟩ := eventDue_of_rivalComesFirst _ _ _ hf
      exact .inr ⟨s, a, .inl ⟨ha, rfl⟩, hd, rfl⟩
    · exact .inl rfl

/-- An event is due only where halting is allowed. -/
theorem haltingAllowed_of_eventDue (a : Point) (s : State) (h : eventDue a s = true) : haltingAllowed s = true := by
  have generated : ∀ k, isGenerated k s = true → haltingAllowed s = true := by
    intro k hk
    unfold isGenerated at hk
    rcases commonCheck_cases k s with ⟨-, h⟩ | ⟨h, -⟩ | ⟨-, h, -⟩
    · exact h.1
    · simp [h] at hk
    · exact h
  cases a <;> simp only [eventDue] at h
  · exact generated _ h
  · exact generated _ h
  · exact generated _ h
  · split at h
    · simp_all
    · split at h <;> simp_all

/-- The other event leaves the state, or brings the PE into Debug state. -/
theorem rivalHappens_cases (r : Rival) (s : State) :
    rivalHappens r s = s ∨ ∃ x, rivalHappens r s = enterDebugState x s := by
  cases r <;> first | exact .inl rfl | exact .inr ⟨_, rfl⟩

theorem whileRunning_ok (c : Bool) (s t u : State) (h : whileRunning c s u = .ok t) :
    s.halted = false ∧ c = true ∧ t = u := by
  unfold whileRunning at h
  split at h
  · cases h
  · split at h
    · cases h
      simp_all
    · cases h

/-- What each move of the environment does. -/
theorem envMove_ok (m : EnvMove) (s t : State) (h : envMove m s = .ok t) :
    match m with
    | .answers a => t = { s with env := a }
    | .takeException e => s.halted = false ∧ e.target.el ≠ 0 ∧ s.params.has e.target = true ∧
        ∃ (r : ElRegs) (pc : Addr), t = { withElRegs e.target.el r s with
          pc := pc, pstate := ⟨e.target.el, e.handlerRest⟩, currentSs := e.target.ss, draws := s.draws + 1 }
    | .exceptionReturn => ∃ r, exceptionReturn s = .ok r ∧ t = r.state
    | .reset r => t = resetEntry r s
    | .changeLevel lv pc rest => s.halted = false ∧ s.params.has lv = true ∧ t = changeLevel lv pc rest s
    | .haltFor r => s.halted = false ∧ r ≠ .exceptionCatch ∧ t = haltForOther r s
    | .resume => s.halted = false ∧ s.params.has ⟨s.currentSs, s.dspsrEl0.el⟩ = true ∧ t = resumeFromLink s
    | .execute pc rest => s.halted = false ∧ t = { s with pc := pc, pstate := ⟨s.pstate.el, rest⟩ }
    | .writeElRegs el r => el ≠ 0 ∧ t = withElRegs el r s := by
  cases m with
  | answers a => exact (Except.ok.inj h).symm
  | takeException e =>
    simp only [envMove, takeException] at h
    split at h
    · cases h
    · rename_i old hold
      split at h
      · cases h
      · rename_i hh
        split at h
        · rename_i hc
          refine ⟨by simpa using hh, ?_, hc.2, _, _, (Except.ok.inj h).symm⟩
          intro h0
          rw [h0] at hold
          cases hold
        · cases h
  | exceptionReturn =>
    simp only [envMove] at h
    cases hr : exceptionReturn s with
    | error e => rw [hr] at h; cases h
    | ok r => rw [hr] at h; exact ⟨r, rfl, (Except.ok.inj h).symm⟩
  | reset r => exact (Except.ok.inj h).symm
  | changeLevel lv pc rest => exact whileRunning_ok _ _ _ _ h
  | haltFor r =>
    obtain ⟨h1, h2, h3⟩ := whileRunning_ok _ _ _ _ h
    exact ⟨h1, by simpa using h2, h3⟩
  | resume => exact whileRunning_ok _ _ _ _ h
  | execute pc rest =>
    obtain ⟨h1, -, h3⟩ := whileRunning_ok _ _ _ _ h
    exact ⟨h1, h3⟩
  | writeElRegs el r =>
    simp only [envMove] at h
    split at h
    · cases h
    · exact ⟨‹_›, (Except.ok.inj h).symm⟩

/-- An input runs an instruction. -/
def Input.Runs (x : Input) (i : Instr) : Prop :=
  x = .op i ∨ (∃ r, x = .contend r i) ∨ ∃ w, x = .insn w ∧ decode w = .ok i

/-- What a step that answers a next state did: nothing, an instruction, another event, or a move of the environment. -/
theorem step_next_cases (s t : State) (h : step s = .next t) :
    (s.inbox = [] ∧ t = s) ∨ ∃ x xs, s.inbox = x :: xs ∧
      ((∃ i, x.Runs i ∧ exec i (withInbox xs s) = .next t) ∨
       (∃ r i u a, x = .contend r i ∧ ContendsAt i a (withInbox xs s) u ∧ eventDue a u = true ∧
          t = (OpOutcome.yield (rivalHappens r u)).conclude) ∨
       ∃ m, x = .env m ∧ envMove m (withInbox xs s) = .ok t) := by
  simp only [step, runNext] at h
  split at h
  · rename_i hx
    exact .inl ⟨hx, (Host.Outcome.next.inj h).symm⟩
  · rename_i x xs hx
    refine .inr ⟨x, xs, hx, ?_⟩
    cases x with
    | op i => exact .inl ⟨i, .inl rfl, h⟩
    | insn w =>
      simp only [runInput, runWord] at h
      split at h
      · rename_i i hd
        exact .inl ⟨i, .inr (.inr ⟨w, rfl, hd⟩), h⟩
      · cases h
    | contend r i =>
      rcases contend_cases r i (withInbox xs s) with e | ⟨u, a, hu, hd, e⟩
      · exact .inl ⟨i, .inr (.inl ⟨r, rfl⟩), e ▸ h⟩
      · simp only [runInput, e, rivalFirst, Host.Outcome.next.injEq] at h
        exact .inr (.inl ⟨r, i, u, a, rfl, hu, hd, h.symm⟩)
    | env m =>
      simp only [runInput, runEnvMove] at h
      split at h
      · rename_i u hu
        cases h
        exact .inr (.inr ⟨m, rfl, hu⟩)
      · cases h

end Sys2Proof.Machine
end

