-- ==== Sys2Proof/Tests/Slice0.lean ====
section
/-! SUPPORT. Tests. The expected results are those of spec/95_test_vectors.md (vectors V, T, H, K, W, P) and of the
rules named, not the model's own answers; then one witness for every obligation that has hypotheses. -/

namespace Sys2Proof.Tests

open Sys2Proof.Machine

/-! ### Helpers -/

def ns1 : Level := ⟨.nonSecure, 1⟩
def s3 : Level := ⟨.secure, 3⟩
def root3 : Level := ⟨.root, 3⟩

/-- The pairs of a PE in a configuration. -/
def levels (c : Configuration) : List Level :=
  [⟨.nonSecure, 0⟩, ns1, ⟨.nonSecure, 2⟩, ⟨.secure, 0⟩, ⟨.secure, 1⟩, ⟨.secure, 2⟩] ++
    if c.haveRme then [⟨.realm, 0⟩, ⟨.realm, 1⟩, ⟨.realm, 2⟩, root3] else [s3]

def params (c : Configuration) : Params :=
  { Params.typical with cfg := c, implemented := levels c, resetLevel := if c.haveRme then root3 else s3 }

/-- A running PE at a level with `EDECCR = v`, `PC = 0x80000400`, halting allowed at every level. -/
def machine (c : Configuration) (lv : Level) (v : Word) : State :=
  { State.resetOf (params c) with
    edeccr := v, currentSs := lv.ss, pstate := ⟨lv.el, 0x3c5#64⟩, pc := 0x80000400#64
    env := ⟨levels c, [], false, [], ⟨false, .nonSecure, 0x600#64, 0#64⟩, 0x80000404#64⟩ }

/-- With an asynchronous exception takeable everywhere (`AE`). -/
def withAsync (s : State) : State := { s with env := { s.env with asyncExceptionAt := levels s.params.cfg } }

/-- With an asynchronous debug event pending (`AD`). -/
def withDebugEvent (s : State) : State := { s with env := { s.env with asyncDebugEventPending := true } }

/-- With halting prohibited (not `HA`). -/
def prohibited (s : State) : State := { s with env := { s.env with haltingAllowedAt := [] } }

/-- With `EDESR.EC = 1`. -/
def pending (s : State) : State := { s with edesrEc := 1#1 }

/-- In Debug state. -/
def inDebug (s : State) : State := enterDebugState .exceptionCatch s

/-- Resets are Exception Catch events. -/
def resetsCaught (s : State) : State := { s with params := { s.params with resetIsExceptionCatch := true } }

/-- Prohibited events may be pended. -/
def pends (s : State) : State := { s with params := { s.params with ecWhenProhibited := .ignoreOrPend } }

/-- With the switch of 90_conflicts.md C4 on. -/
def withSwitch (s : State) : State := { s with params := { s.params with returnEcBeforeAsyncV8p2 := true } }

/-- The queue. -/
def given (xs : List Input) (s : State) : State := { s with inbox := xs }

/-- The outcome set: the outcome, `DLR_EL0` and `EDESR.EC` of each member; empty where it is refused. -/
def outcomes : Except Refusal Alternatives → List (OutcomeTag × Addr × Bit)
  | .ok a => a.toList.map fun o => (o.tag, o.state.dlrEl0, o.state.edesrEc)
  | .error _ => []

/-- One step's next state, seen through `f`. -/
def after {α : Type} (s : State) (f : State → α) : Option α :=
  match step s with
  | .next t => some (f t)
  | .fault _ => none
  | .refused _ => none

/-- The step's refusal. -/
def refusalOf (s : State) : Option Refusal :=
  match step s with
  | .next _ => none
  | .fault _ => none
  | .refused r => some r

def dlr : Addr := 0x80000400#64

/-! ### WellFormed smoke tests -/

/-- R17: no `EDESR.EC` without `FEAT_Debugv8p8`. -/
theorem test_wellformed_refuses_edesr_write : Instr.wellFormed .v8p2Rme (.opWriteEdesr 8#32) = false := by decide

theorem test_wellformed_refuses_edesr_read : Instr.wellFormed .v8p0 .opReadEdesr = false := by decide

theorem test_wellformed_accepts_edesr : Instr.wellFormed .v8p8 (.opWriteEdesr 8#32) = true := by decide

/-- R58: (NonSecure, 3) is not a legal pair. -/
theorem test_params_refuse_illegal_pair :
    ({ params .v8p2 with implemented := ⟨.nonSecure, 3⟩ :: levels .v8p2 }).wellFormed = false := by decide

/-- R54: no Realm state without `FEAT_RME`. -/
theorem test_params_refuse_realm_without_rme :
    ({ params .v8p8 with implemented := ⟨.realm, 1⟩ :: levels .v8p8 }).wellFormed = false := by decide

theorem test_params_refuse_reset_into_absent_pair :
    ({ params .v8p2 with resetLevel := root3 }).wellFormed = false := by decide

theorem test_params_accepted : ∀ c ∈ [Configuration.v8p0, .v8p2, .v8p2Rme, .v8p8, .v8p8Rme],
    (params c).wellFormed = true := by decide

/-- R4's three refused combinations. -/
theorem test_features_refused :
    [Configuration.ofFeatures false true false, Configuration.ofFeatures false false true,
      Configuration.ofFeatures false true true] = [none, none, none] := by decide

def anException : ExceptionEntry :=
  { target := ns1, handler := .aarch64 .aarch64 .spx, kind := .synchronous, returnAddress := 0x1000#64,
    syndrome := 0x92000047#64, faultAddress := 0xdead0000#64, handlerRest := 0x3c5#64 }

/-- An event held at a level other than the exception's target, with each order of the two events. -/
def wHeld (r : Rank) : State :=
  let s := pending (machine .v8p8 ⟨.nonSecure, 0⟩ 0x20#32)
  { s with params := { s.params with ecVsSoftwareStep := r, ecVsHaltingStep := r } }

/-- Before the exception of P1. -/
def wBefore : State :=
  { machine .v8p2 ⟨.nonSecure, 0⟩ 0x20#32 with el1 := { ElRegs.zero with vbar := 0x80000000#64 } }

/-- The moves and operations of P1, steps 1 to 4 and 7 to 10, keep the hook contract (R9). -/
theorem test_hook_contract_accepts_p1 :
    Safety.keepsHookContract .nothing wBefore
      [.op (.opWriteEdeccr 0x20#32), .op .opInsnBoundary, .env (.takeException anException), .op .opExcEntry,
       .op .opReadEdeccr, .op .opExitDebug, .env .resume, .op .opInsnBoundary, .insn 0xD69F03E0#32] = true := by decide

/-- A boundary that halts the PE (R68, R80) is followed by the exit, the resumption and the next boundary (R94). -/
theorem test_hook_contract_accepts_halt_at_boundary :
    Safety.owedAfterOp .opInsnBoundary (pending (machine .v8p8 ns1 0#32))
      { inDebug (pending (machine .v8p8 ns1 0#32)) with lastOutcome := .halted } .nothing = some .nothing ∧
    Safety.keepsHookContract .nothing (inDebug (machine .v8p8 ns1 0#32))
      [.op .opExitDebug, .env .resume, .op .opInsnBoundary] = true := by decide

/-- P5's variant: Reset Catch halts the PE first, `OP_RESET` after it finds halting not allowed (R103). -/
theorem test_hook_contract_accepts_reset_catch :
    Safety.keepsHookContract (.hook .opReset) (resetsCaught (machine .v8p2 s3 0x8#32))
      [.env (.haltFor .resetCatch), .op .opReset, .op .opExitDebug, .env .resume] = true := by decide

/-- An exception without its hook breaks the contract (R9), whatever comes instead: a boundary, another debug event,
a second exception, an instruction's operation. -/
theorem test_hook_contract_refuses_missing_hook :
    ([[.op .opInsnBoundary], [.env (.haltFor .asynchronousDebugEvent)], [.op .opIsb], [.op (.opWriteOseccr 0#32)],
      [.env (.writeElRegs 1 ElRegs.zero)], [.env (.takeException { anException with kind := .irq })]].all fun xs =>
        !Safety.keepsHookContract .boundaryCalled wBefore (.env (.takeException anException) :: xs)) = true := by decide

/-- U14, R106: a Vector Catch exception as part of the entry, and the hook for the second entry; also with an event held
in `EDESR.EC` and the entry not caught, and as a contention at the hook. -/
theorem test_hook_contract_accepts_vector_catch :
    let second := Input.env (.takeException { anException with kind := .vectorCatch })
    Safety.keepsHookContract .boundaryCalled wBefore
      [.env (.takeException anException), second, .op .opExcEntry] = true ∧
    (let s := { wHeld .higher with edeccr := 0#32 }
     Safety.keepsHookContract (.hook .opExcEntry) s [second, .op .opExcEntry] = true ∧
     Safety.keepsHookContract (.hook .opExcEntry) s
       [.contend .vectorCatchException .opExcEntry, second, .op .opExcEntry] = true ∧
     Safety.keepsHookContract (.hook .opExcEntry) s
       [.contend .vectorCatchException .opExcEntry, .op .opInsnBoundary] = false) := by decide

/-- R62, R67: after a hook has yielded to an asynchronous exception, that exception and nothing else; to a debug event
likewise, and with the switch of 90_conflicts.md C4 no exception after a return. -/
theorem test_hook_contract_after_yield :
    let s := machine .v8p0 ns1 0x20#32
    let irq := Input.env (.takeException { anException with kind := .irq })
    Safety.owedAfterOp .opExcEntry s (OpOutcome.yield (withAsync s)).conclude (.hook .opExcEntry) =
      some (.asyncDue true false) ∧
    Safety.owedAfterOp (.opExcReturn false) s
      (OpOutcome.yield (withSwitch (withAsync (withDebugEvent (machine .v8p2 ns1 0x20#32))))).conclude
      (.hook (.opExcReturn false)) = some (.asyncDue false true) ∧
    Safety.keepsHookContract (.asyncDue true false) s [irq, .op .opExcEntry] = true ∧
    Safety.keepsHookContract (.asyncDue false true) s [.env (.haltFor .asynchronousDebugEvent)] = true ∧
    ([[.op .opInsnBoundary], [.env (.execute 0#64 0#64)], [.env (.takeException anException)],
      [.env (.haltFor .asynchronousDebugEvent)]].all fun xs =>
        !Safety.keepsHookContract (.asyncDue true false) s xs) = true ∧
    Safety.keepsHookContract (.asyncDue false true) s [irq] = false := by decide

/-- P4: each instruction, a write of `OSECCR` among them, has its boundary; two accesses need two. -/
theorem test_hook_contract_accepts_p4 :
    let s := machine .v8p2 ns1 0#32
    Safety.keepsHookContract .boundaryCalled s
      [.op (.opWriteOseccr 0x20#32), .op .opInsnBoundary, .insn 0xD5033FDF#32, .op .opInsnBoundary,
       .insn 0xD69F03E0#32] = true ∧
    Safety.keepsHookContract .boundaryCalled s [.env (.execute 0x80000404#64 0#64), .op .opIsb] = true ∧
    Safety.keepsHookContract .boundaryCalled s [.op (.opWriteOseccr 0x20#32), .op .opIsb] = false := by decide

/-- An instruction without the boundary before it breaks the contract (R9), and so does one that completes while an
event waits (R80), and an exception it raises then (R85); no other exception does. -/
theorem test_hook_contract_refuses_missing_boundary :
    Safety.keepsHookContract .nothing wBefore [.insn 0xD5033FDF#32] = false ∧
    Safety.keepsHookContract .boundaryCalled (wHeld .higher) [.insn 0xD5033FDF#32] = false ∧
    Safety.keepsHookContract .nothing (wHeld .higher) [.env (.takeException anException)] = false ∧
    Safety.keepsHookContract .nothing (prohibited (wHeld .higher)) [.env (.takeException anException)] = true ∧
    Safety.keepsHookContract .nothing (wHeld .higher)
      [.env (.takeException { anException with kind := .irq })] = true := by decide

/-! ### Decoding: the words of 30_encoding.md R43 bit by bit -/

theorem test_decode_eret : decode 0b11010110100111110000001111100000#32 = .ok .eret := by decide

theorem test_decode_isb : decode 0b11010101000000110011111111011111#32 = .ok .isb := by decide

theorem test_encode_words : encode .eret = some 0b11010110100111110000001111100000#32 ∧
    encode .isb = some 0b11010101000000110011111111011111#32 := by decide

/-- A word one bit away is not in the spec. -/
theorem test_decode_rejects : decode 0b11010110100111110000001111100001#32 = .error (.notInSpec 0xD69F03E1#32) := by
  decide

/-! ### CatchEnabled: V2 to V8 and the T vectors -/

/-- The five configurations. -/
def allConfigurations : List Configuration := [.v8p0, .v8p2, .v8p2Rme, .v8p8, .v8p8Rme]

/-- The answers to Entry and Return. -/
def answers (c : Configuration) (v : Word) (lv : Level) : Option Bool × Option Bool :=
  (catchEnabled (params c) v lv .entry, catchEnabled (params c) v lv .ret)

/-- V1 to V3, and V4 to V8, in every configuration. -/
theorem test_vectors_of_the_source :
    (allConfigurations.all fun c => answers c 0x20#32 ns1 == (some true, some true)) = true ∧
    (allConfigurations.all fun c =>
      [⟨.nonSecure, 2⟩, ⟨.secure, 2⟩, s3, ⟨.nonSecure, 0⟩, ⟨.secure, 0⟩, ⟨.secure, 1⟩].all fun lv =>
        answers c 0x20#32 lv == (some false, some false)) = true := by decide

/-- A row of section 2: `EDECCR`, the query, Entry and Return in `CFG_V8P0`, Entry and Return with two control bits. -/
def catchRows : List (Word × Level × (Bool × Bool) × (Bool × Bool)) :=
  [(0x0#32, ns1, (false, false), (false, false)),
   (0x20#32, ns1, (true, true), (true, true)),
   (0x2000#32, ns1, (false, false), (false, true)),
   (0x2020#32, ns1, (true, true), (true, false)),
   (0x2020#32, ⟨.secure, 1⟩, (false, false), (false, false)),
   (0x2#32, ⟨.secure, 1⟩, (true, true), (true, true)),
   (0x2#32, ns1, (false, false), (false, false)),
   (0x200#32, ⟨.secure, 1⟩, (false, false), (false, true)),
   (0x202#32, ⟨.secure, 1⟩, (true, true), (true, false)),
   (0x8#32, s3, (true, true), (true, true)),
   (0x808#32, s3, (true, true), (true, false)),
   (0x800#32, s3, (false, false), (false, true)),
   (0x10#32, ⟨.nonSecure, 0⟩, (true, true), (true, true)),
   (0x1000#32, ⟨.nonSecure, 0⟩, (false, false), (false, true))] ++
  [(0x40#32, ⟨.nonSecure, 2⟩, (true, true), (true, true)),
   (0x4040#32, ⟨.nonSecure, 2⟩, (true, true), (true, false)),
   (0x4#32, ⟨.secure, 2⟩, (true, true), (true, true)),
   (0x1#32, ⟨.secure, 0⟩, (true, true), (true, true)),
   (0x20000#32, ns1, (false, false), (false, false)),
   (0x20000#32, ⟨.secure, 1⟩, (false, false), (false, false)),
   (0xFFFFFFFF#32, ns1, (true, true), (true, false)),
   (0xFFFFFFFF#32, s3, (true, true), (true, false)),
   (0x70077#32, ⟨.nonSecure, 2⟩, (true, true), (true, true)),
   (0x70077#32, s3, (false, false), (false, false)),
   (0xFF888080#32, ns1, (false, false), (false, false)),
   (0xFF888080#32, s3, (false, false), (false, false))]

/-- T1 to T29 but for Realm and Root. -/
theorem test_catch_rows_one_bit :
    (catchRows.all fun r => answers .v8p0 r.1 r.2.1 == (some r.2.2.1.1, some r.2.2.1.2)) = true := by decide

theorem test_catch_rows_two_bits :
    ([Configuration.v8p2, .v8p2Rme, .v8p8, .v8p8Rme].all fun c =>
      catchRows.all fun r => answers c r.1 r.2.1 == (some r.2.2.2.1, some r.2.2.2.2)) = true := by decide

/-- T11, T20 to T24: with `FEAT_RME`. -/
def rmeRows : List (Word × Level × (Bool × Bool)) :=
  [(0x8#32, root3, (true, true)),
   (0x20000#32, ⟨.realm, 1⟩, (true, true)),
   (0x200000#32, ⟨.realm, 1⟩, (false, true)),
   (0x220000#32, ⟨.realm, 1⟩, (true, false)),
   (0x440000#32, ⟨.realm, 2⟩, (true, false)),
   (0x10000#32, ⟨.realm, 0⟩, (true, true))]

theorem test_catch_rows_rme :
    ([Configuration.v8p2Rme, .v8p8Rme].all fun c =>
      rmeRows.all fun r => answers c r.1 r.2.1 == (some r.2.2.1, some r.2.2.2)) = true ∧
    ([Configuration.v8p0, .v8p2, .v8p8].all fun c =>
      rmeRows.all fun r => answers c r.1 r.2.1 == (none, none)) = true := by decide

/-- T29a. -/
theorem test_catch_refuses_level_3 :
    (allConfigurations.all fun c =>
      [⟨.nonSecure, 3⟩, ⟨.realm, 3⟩].all fun lv => answers c 0xFFFFFFFF#32 lv == (none, none)) = true := by decide

/-- T30 to T34. -/
theorem test_catch_reset :
    catchEnabled (resetsCaught (machine .v8p0 s3 0#32)).params 0x8#32 s3 .reset = some true ∧
    catchEnabled (params .v8p2) 0x8#32 s3 .reset = some false ∧
    catchEnabled (resetsCaught (machine .v8p2 s3 0#32)).params 0x800#32 s3 .reset = some false ∧
    catchEnabled (resetsCaught (machine .v8p8 s3 0#32)).params 0x808#32 s3 .reset = some true ∧
    catchEnabled (resetsCaught (machine .v8p8Rme s3 0#32)).params 0x20#32 ns1 .reset = some true := by decide

/-! ### The hooks: H and K vectors, as outcome sets -/

/-- H1 to H3. -/
theorem test_entry_v8p0 :
    outcomes (entryHook .entry (machine .v8p0 ns1 0x20#32)) = [(.halted, dlr, 0#1)] ∧
    outcomes (entryHook .entry (withAsync (machine .v8p0 ns1 0x20#32))) =
      [(.halted, dlr, 0#1), (.yield, 0#64, 0#1)] ∧
    outcomes (entryHook .entry (withDebugEvent (machine .v8p0 ns1 0x20#32))) =
      [(.halted, dlr, 0#1), (.yield, 0#64, 0#1)] := by decide

/-- H4. -/
theorem test_entry_v8p2 :
    outcomes (entryHook .entry (withAsync (withDebugEvent (machine .v8p2 ns1 0x20#32)))) = [(.halted, dlr, 0#1)] ∧
    outcomes (entryHook .entry (withAsync (withDebugEvent (machine .v8p2Rme ns1 0x20#32)))) =
      [(.halted, dlr, 0#1)] := by decide

/-- H5 to H7. -/
theorem test_entry_v8p8 :
    outcomes (entryHook .entry (machine .v8p8 ns1 0x20#32)) = [(.halted, dlr, 0#1), (.halted, dlr, 1#1)] ∧
    outcomes (entryHook .entry (withAsync (machine .v8p8Rme ns1 0x20#32))) =
      [(.halted, dlr, 0#1), (.halted, dlr, 1#1), (.yield, 0#64, 1#1)] ∧
    outcomes (entryHook .entry (pending (withAsync (machine .v8p8 ns1 0x20#32)))) =
      [(.halted, dlr, 0#1), (.halted, dlr, 1#1), (.yield, 0#64, 1#1)] := by decide

/-- H8, H9, H16, K11. -/
theorem test_entry_continues :
    outcomes (entryHook .entry (prohibited (machine .v8p8 ns1 0x20#32))) = [(.cont, 0#64, 0#1)] ∧
    outcomes (entryHook .entry (pends (prohibited (machine .v8p8 ns1 0x20#32)))) =
      [(.cont, 0#64, 0#1), (.cont, 0#64, 1#1)] ∧
    outcomes (entryHook .entry (machine .v8p2 ⟨.secure, 1⟩ 0x20#32)) = [(.cont, 0#64, 0#1)] ∧
    outcomes (entryHook .entry (machine .v8p2 ns1 0x2000#32)) = [(.cont, 0#64, 0#1)] ∧
    outcomes (entryHook .entry (pending (machine .v8p8 ns1 0#32))) = [(.cont, 0#64, 1#1)] := by decide

/-- H10 to H12. -/
theorem test_return_halts_or_yields :
    outcomes (returnHook (machine .v8p8 ns1 0x20#32)) = [(.halted, dlr, 0#1)] ∧
    outcomes (returnHook (withAsync (machine .v8p2 ns1 0x20#32))) = [(.halted, dlr, 0#1), (.yield, 0#64, 0#1)] ∧
    outcomes (returnHook (withDebugEvent (machine .v8p0 ns1 0x20#32))) =
      [(.halted, dlr, 0#1), (.yield, 0#64, 0#1)] := by decide

/-- H13 to H15. -/
theorem test_return_pending_and_entry_only :
    outcomes (returnHook (pending (machine .v8p8 ns1 0x20#32))) = [(.halted, dlr, 0#1), (.halted, dlr, 1#1)] ∧
    outcomes (returnHook (prohibited (pending (machine .v8p8 ns1 0x20#32)))) = [(.cont, 0#64, 1#1)] ∧
    outcomes (returnHook (machine .v8p2 ns1 0x2020#32)) = [(.cont, 0#64, 0#1)] := by decide

/-- The switch of H11. -/
theorem test_return_switch :
    let s := withAsync (machine .v8p2 ns1 0x20#32)
    outcomes (returnHook { s with params := { s.params with returnEcBeforeAsyncV8p2 := true } }) =
      [(.halted, dlr, 0#1)] := by decide

/-- H26 to H28. -/
theorem test_reset :
    outcomes (entryHook .reset (resetsCaught (withAsync (machine .v8p2 s3 0x8#32)))) = [(.halted, dlr, 0#1)] ∧
    outcomes (entryHook .reset (machine .v8p2 s3 0x8#32)) = [(.cont, 0#64, 0#1)] ∧
    outcomes (entryHook .reset (resetsCaught (machine .v8p8 s3 0x8#32))) =
      [(.halted, dlr, 0#1), (.halted, dlr, 1#1)] := by decide

/-- H21 to H25. -/
theorem test_boundary :
    outcomes (boundaryHook (machine .v8p0 ns1 0x20#32)) = [(.cont, 0#64, 0#1), (.halted, dlr, 0#1)] ∧
    outcomes (boundaryHook (machine .v8p0 ⟨.nonSecure, 0⟩ 0x20#32)) = [(.cont, 0#64, 0#1)] ∧
    outcomes (boundaryHook (prohibited (machine .v8p0 ns1 0x20#32))) = [(.cont, 0#64, 0#1)] ∧
    outcomes (boundaryHook (machine .v8p2Rme ns1 0x20#32)) = [(.cont, 0#64, 0#1)] ∧
    outcomes (boundaryHook (machine .v8p8Rme ns1 0x20#32)) = [(.cont, 0#64, 0#1)] := by decide

/-- K1 to K3. -/
theorem test_boundary_pending :
    outcomes (boundaryHook (pending (machine .v8p8 ns1 0#32))) = [(.halted, dlr, 0#1), (.halted, dlr, 1#1)] ∧
    outcomes (boundaryHook (withAsync (pending (machine .v8p8 ns1 0#32)))) =
      [(.halted, dlr, 0#1), (.halted, dlr, 1#1), (.yield, 0#64, 1#1)] ∧
    outcomes (boundaryHook (prohibited (pending (machine .v8p8 ns1 0x20#32)))) = [(.cont, 0#64, 1#1)] := by decide

/-! ### One step -/

/-- P1, step 3: the exception entry's registers and the vector (V1, R108). -/
theorem test_step_take_exception :
    after (given [.env (.takeException anException)]
      { machine .v8p2 ⟨.nonSecure, 0⟩ 0x20#32 with el1 := { ElRegs.zero with vbar := 0x80000000#64 } })
      (fun t => (t.pc, t.pstate, t.el1)) =
      some (0x80000400#64, ⟨1, 0x3c5#64⟩,
        ⟨0x1000#64, ⟨0, 0x3c5#64⟩, 0x92000047#64, 0xdead0000#64, 0x80000000#64⟩) := by decide

/-- R108's offsets, by the levels: from EL1 to EL1 with `SP_ELx` `0x200`, with `SP_EL0` `0x000`; an IRQ from a lower
level using AArch32 `0x680`. -/
theorem test_step_vector_groups :
    let taken := fun (lv : Level) (h : Handler) (k : ExceptionKind) =>
      after (given [.env (.takeException { anException with handler := h, kind := k })]
        { machine .v8p2 lv 0#32 with el1 := { ElRegs.zero with vbar := 0x80000000#64 } }) State.pc
    taken ns1 (.aarch64 .aarch64 .spx) .synchronous = some 0x80000200#64 ∧
    taken ns1 (.aarch64 .aarch32 .sp0) .synchronous = some 0x80000000#64 ∧
    taken ⟨.nonSecure, 0⟩ (.aarch64 .aarch32 .sp0) .irq = some 0x80000680#64 := by decide

/-- P1, step 4. -/
theorem test_step_entry :
    after (given [.op .opExcEntry] (machine .v8p2 ns1 0x20#32)) (fun t => (t.debugState, t.dlrEl0, t.dspsrEl0)) =
      some (some .exceptionCatch, 0x80000400#64, ⟨1, 0x3c5#64⟩) := by decide

/-- R58: a hook at (NonSecure, 3) is refused. -/
theorem test_step_entry_refused :
    refusalOf (given [.op .opExcEntry] { machine .v8p2 ⟨.nonSecure, 3⟩ 0#32 with
      env := ⟨[⟨.nonSecure, 3⟩], [], false, [], ⟨false, .nonSecure, 0#64, 0#64⟩, 0#64⟩ }) =
      some (.noCatchBits ⟨.nonSecure, 3⟩) := by decide

/-- P2, step 7. -/
theorem test_step_return :
    after (given [.op (.opExcReturn false)] (machine .v8p0 ns1 0x20#32)) (fun t => (t.halted, t.dlrEl0)) =
      some (true, 0x80000400#64) := by decide

/-- H18. -/
theorem test_step_illegal_return :
    after (given [.op (.opExcReturn true)] (machine .v8p2 ns1 0x2020#32)) State.halted = some false := by decide

/-- P5, step 2. -/
theorem test_step_reset :
    after (given [.op .opReset] (resetsCaught (machine .v8p2 s3 0x8#32))) (fun t => (t.halted, t.dlrEl0)) =
      some (true, 0x80000400#64) := by decide

/-- H24. -/
theorem test_step_boundary :
    after (given [.op .opInsnBoundary] (machine .v8p2 ns1 0x20#32)) State.halted = some false := by decide

/-- W1, K10. -/
theorem test_step_write_edeccr :
    after (given [.op (.opWriteEdeccr 0x20#32)] (pending (machine .v8p8 ns1 0#32)))
      (fun t => (t.edeccr, t.edesrEc, t.halted)) = some (0x20#32, 1#1, false) := by decide

/-- W2. -/
theorem test_step_write_oseccr :
    after (given [.op (.opWriteOseccr 0x2020#32)] (machine .v8p0 ns1 0#32)) State.edeccr = some 0x2020#32 := by decide

/-- K5 (`EC` at bit 3, R17). -/
theorem test_step_write_edesr_clears :
    after (given [.op (.opWriteEdesr 0x8#32)] (pending (machine .v8p8 ns1 0#32))) State.edesrEc = some 0#1 := by decide

/-- K6: a write of 0 to `EC`. -/
theorem test_step_write_edesr_zero :
    after (given [.op (.opWriteEdesr 0xFFFFFFF7#32)] (pending (machine .v8p8 ns1 0#32))) State.edesrEc =
      some 1#1 := by decide

/-- W4. -/
theorem test_step_read_edeccr :
    after (given [.op .opReadEdeccr] (machine .v8p0 ns1 0xFFFFFFFF#32)) State.readData = some 0xFFFFFFFF#32 := by decide

/-- W3. -/
theorem test_step_read_oseccr :
    after (given [.op .opReadOseccr] (machine .v8p2 ns1 0x20#32)) State.readData = some 0x20#32 := by decide

/-- R41: at any time. Without `FEAT_Debugv8p8` there is no `EC` bit to write or to read (R17). -/
theorem test_step_edesr_without_the_bit :
    after (given [.op .opReadEdesr] (machine .v8p2 ns1 0#32)) (fun t => (t.lastOutcome, t.edesrEc)) =
      some (.cont, 0#1) ∧
    after (given [.op (.opWriteEdesr 0x8#32)] (machine .v8p0 ns1 0#32)) (fun t => (t.lastOutcome, t.edesrEc)) =
      some (.cont, 0#1) := by decide

/-- K8. -/
theorem test_step_exit_debug :
    after (given [.op .opExitDebug] (inDebug (pending (machine .v8p8 ns1 0x20#32)))) (fun t => (t.halted, t.edesrEc)) =
      some (false, 0#1) := by decide

/-- W5's `OP_ISB`. -/
theorem test_step_op_isb :
    after (given [.op .opIsb] (machine .v8p0 ns1 0x20#32)) (fun t => (t.halted, t.pc)) =
      some (false, 0x80000400#64) := by decide

/-- W8. -/
theorem test_step_a32_state_change :
    after (given [.op .opA32StateChange] (machine .v8p8 ⟨.secure, 1⟩ 0x2#32)) State.halted = some false := by decide

/-- P2, steps 6 and 7, by the instruction word: EL2 returns to (NonSecure, 1), which is caught. -/
theorem test_step_eret_word :
    after (given [.insn 0xD69F03E0#32]
      { machine .v8p2 ⟨.nonSecure, 2⟩ 0x20#32 with
        el2 := { ElRegs.zero with elr := 0x80000400#64, spsr := ⟨1, 0x7#64⟩ }, pc := 0x9000#64 })
      (fun t => (t.level, t.debugState, t.dlrEl0, t.dspsrEl0)) =
      some (ns1, some .exceptionCatch, 0x80000400#64, ⟨1, 0x7#64⟩) := by decide

/-- An `ERET` at (NonSecure, 2) to (NonSecure, 1): legal (P2). -/
def wLegal : State :=
  { machine .v8p2 ⟨.nonSecure, 2⟩ 0x20#32 with el2 := { ElRegs.zero with elr := dlr, spsr := ⟨1, 0x7#64⟩ } }

/-- At (NonSecure, 0), returns there caught, the next return illegal by the environment's rules. -/
def wIllegalEl0 : State :=
  { machine .v8p2 ⟨.nonSecure, 0⟩ 0x1000#32 with
    env := ⟨levels .v8p2, [], false, [], ⟨true, .nonSecure, 0x600#64, 0#64⟩, 0#64⟩ }

/-- P6: an illegal return from (NonSecure, 1), which asks for EL2. -/
theorem test_step_eret_illegal :
    after (given [.insn 0xD69F03E0#32]
      { machine .v8p2 ns1 0x2000#32 with el1 := { ElRegs.zero with spsr := ⟨2, 0x7#64⟩ } })
      (fun t => (t.level, t.debugState, t.dlrEl0)) = some (ns1, some .exceptionCatch, 0x600#64) := by decide

/-- R65 at EL0: an illegal return stays, and is judged there; a legal one goes to EL0 of the environment's Security
state. -/
theorem test_step_eret_at_el0 :
    after (given [.insn 0xD69F03E0#32] wIllegalEl0) (fun t => (t.level, t.debugState, t.dlrEl0)) =
      some (⟨.nonSecure, 0⟩, some .exceptionCatch, 0x600#64) ∧
    after (given [.insn 0xD69F03E0#32] (machine .v8p2 ⟨.secure, 0⟩ 0x1#32)) (fun t => (t.level, t.halted, t.pc)) =
      some (⟨.nonSecure, 0⟩, false, 0x600#64) := by decide

/-- P4, step 3. -/
theorem test_step_isb_word :
    after (given [.insn 0xD5033FDF#32] (machine .v8p2 ns1 0x20#32)) (fun t => (t.pc, t.halted)) =
      some (0x80000404#64, false) := by decide

/-- A word placed by `withFetchWord` runs as the first instruction after reset: `ERET` returns from EL3 to the level its
`SPSR_EL3` holds (EL0, log 13). -/
theorem test_first_step_after_reset :
    after (State.reset.withFetchWord 32 0xD69F03E0) State.level = some ⟨.nonSecure, 0⟩ ∧
    after (State.reset.withFetchWord 32 0xD5033FDF) State.level = some root3 := by decide

/-- P5's variant: with a Reset Catch debug event also due, the PE halts for Reset Catch (R103). -/
theorem test_step_reset_catch_first :
    after (given [.contend .resetCatch .opReset] (resetsCaught (machine .v8p8 s3 0x8#32)))
      (fun t => (t.debugState, t.edesrEc)) = some (some .resetCatch, 0#1) := by decide

/-- R101: with Exception Catch the lower, a Halting Step comes before the event its `ERET` generates (P2, step 7). -/
theorem test_step_halting_step_before_eret :
    let s := wLegal
    after (given [.contend .haltingStep .eret]
        { s with params := { s.params with ecVsHaltingStep := .lower } }) (fun t => (t.level, t.debugState, t.dlrEl0)) =
      some (ns1, some .haltingStep, 0x80000400#64) ∧
    after (given [.contend .haltingStep .eret] s) (fun t => (t.level, t.debugState, t.dlrEl0)) =
      some (ns1, some .exceptionCatch, 0x80000400#64) := by decide

/-- R112 item 4, R97: the handler's address and the `PC` after a level change in AArch32 state are the environment's. -/
theorem test_step_aarch32 :
    after (given [.env (.takeException { anException with handler := .aarch32 0xffff0004#64 })] wBefore) State.pc =
      some 0xffff0004#64 ∧
    after (given [.env (.changeLevel ⟨.secure, 1⟩ 0x2000#64 0x13#64)] wBefore) (fun t => (t.level, t.pc)) =
      some (⟨.secure, 1⟩, 0x2000#64) := by decide

/-- R101, R107: another debug event halts the PE where it is. -/
theorem test_step_halt_for_other :
    after (given [.env (.haltFor .asynchronousDebugEvent)] (machine .v8p2 ns1 0#32))
      (fun t => (t.debugState, t.dlrEl0, t.dspsrEl0)) =
      some (some .asynchronousDebugEvent, 0x80000400#64, ⟨1, 0x3c5#64⟩) := by decide

/-! ### Witnesses: concrete states that meet the hypotheses of the obligations -/

/-- The invariant of a running or halted machine of the tests, part by part. -/
theorem witness_inv (s : State) (h1 : s.params.wellFormed = true) (h2 : s.params.has s.level = true)
    (h3 : s.params.cfg.haveDebugv8p8 = false → s.edesrEc = 0#1)
    (h4 : s.halted = true → s.dlrEl0 = s.pc ∧ s.dspsrEl0 = s.pstate) : s.Inv := ⟨h1, h2, h3, h4⟩

/-- V8P0 caught at entry, nothing asynchronous due. -/
def w0 : State := machine .v8p0 ns1 0x20#32
/-- V8P2 likewise. -/
def w2 : State := machine .v8p2 ns1 0x20#32
/-- V8P8 likewise, with a pending event. -/
def w8 : State := pending (machine .v8p8 ns1 0x20#32)
/-- Resets caught at (Secure, 3). -/
def wReset (c : Configuration) : State := resetsCaught (machine c s3 0x8#32)

theorem witness_StepRunsDecodedInstruction :
    ((given [.insn 0xD69F03E0#32] w2).inbox = [.insn 0xD69F03E0#32] ∧ decode 0xD69F03E0#32 = .ok .eret) ∧
    ((given [.insn 0#32] w2).inbox = [.insn 0#32] ∧ decode 0#32 = .error (.notInSpec 0#32)) ∧
    decodeTableWord 32 0xD5033FDF = some .isb := by decide

theorem witness_StepRunsTheNextInput :
    (given [.op .opIsb] w2).inbox = [.op .opIsb] ∧ (given [.env .resume] w2).inbox = [.env .resume] ∧
    (given [.contend .haltingStep .opExcEntry] w2).inbox = [.contend .haltingStep .opExcEntry] ∧
    State.reset.inbox = [] := by decide

theorem witness_AnchorValueEnablesNonSecureEl1Only :
    EntryKind.entry ≠ .reset ∧ EntryKind.ret ≠ .reset := by decide

theorem witness_OneBitControl :
    (params .v8p0).cfg = .v8p0 ∧ hasCatchBits .v8p0 ns1 = true ∧ hasCatchBits .v8p0 s3 = true := by decide

theorem witness_TwoBitControl :
    (params .v8p2).cfg.haveDebugv8p2 = true ∧ hasCatchBits .v8p2 s3 = true ∧
    (params .v8p8Rme).cfg.haveDebugv8p2 = true ∧ hasCatchBits .v8p8Rme root3 = true ∧
    hasCatchBits .v8p8Rme ⟨.realm, 2⟩ = true := by decide

theorem witness_ResetIsEnabledAsAnExceptionTaken :
    (wReset .v8p2).params.resetIsExceptionCatch = true ∧ (params .v8p2).resetIsExceptionCatch = false ∧
    ((params .v8p2).cfg.haveDebugv8p2 = true ∧ rBit 0x800#32 s3 = true ∧ eBit 0x800#32 s3 = false) := by decide

theorem witness_UnassignedBitsAreNeverRead :
    (0x0#32 &&& 0x00777F7F#32 = 0xFF888080#32 &&& 0x00777F7F#32) ∧
    (0x0#32 &&& 0x00007F7F#32 = 0xFFFF8080#32 &&& 0x00007F7F#32) ∧
    (0x0#32 &&& 0x0000007F#32 = 0xFFFFFF80#32 &&& 0x0000007F#32) := by decide

theorem witness_EntryHaltsOrYieldsWithoutDebugv8p2 :
    (w0.params.cfg = .v8p0 ∧ w0.Generated .entry ∧ asyncDue w0 = false) ∧
    ((withAsync w0).params.cfg = .v8p0 ∧ (withAsync w0).Generated .entry ∧ asyncDue (withAsync w0) = true) :=
  ⟨⟨rfl, ⟨by decide, by decide⟩, by decide⟩, rfl, ⟨by decide, by decide⟩, by decide⟩

theorem witness_EntryHaltsAtOnceWithDebugv8p2 :
    ((withAsync w2).params.cfg = .v8p2 ∧ (withAsync w2).Generated .entry) ∧
    ((machine .v8p2Rme root3 0x8#32).params.cfg = .v8p2Rme ∧ (machine .v8p2Rme root3 0x8#32).Generated .entry) :=
  ⟨⟨rfl, by decide, by decide⟩, rfl, by decide, by decide⟩

theorem witness_EntrySetsPendingBitWithDebugv8p8 :
    (w8.params.cfg = .v8p8 ∧ w8.Generated .entry) ∧
    ((machine .v8p8Rme ⟨.realm, 1⟩ 0x20000#32).params.cfg = .v8p8Rme ∧
      (machine .v8p8Rme ⟨.realm, 1⟩ 0x20000#32).Generated .entry) :=
  ⟨⟨rfl, by decide, by decide⟩, rfl, by decide, by decide⟩

theorem witness_ResetIsCaughtAsAnExceptionTaken :
    ((wReset .v8p0).params.cfg = .v8p0 ∧ (wReset .v8p0).Generated .reset) ∧
    ((wReset .v8p2).params.cfg = .v8p2 ∧ (wReset .v8p2).Generated .reset) ∧
    ((wReset .v8p8).params.cfg = .v8p8 ∧ (wReset .v8p8).Generated .reset) ∧
    (w2.params.resetIsExceptionCatch = false ∧ hasCatchBits w2.params.cfg w2.level = true) :=
  ⟨⟨rfl, by decide, by decide⟩, ⟨rfl, by decide, by decide⟩, ⟨rfl, by decide, by decide⟩, rfl, by decide⟩

theorem witness_ReturnHaltsOrYields :
    (w2.params.returnEcBeforeAsyncV8p2 = false ∧ w2.Generated .ret ∧ w2.params.cfg.haveDebugv8p8 = false) ∧
    ((withSwitch w0).params.returnEcBeforeAsyncV8p2 = true ∧ (withSwitch w0).Generated .ret ∧
      (withSwitch w0).params.cfg.haveDebugv8p2 = false) ∧
    ((withSwitch w8).params.returnEcBeforeAsyncV8p2 = true ∧ (withSwitch w8).Generated .ret ∧
      (withSwitch w8).params.cfg.haveDebugv8p8 = true ∧ (withSwitch w8).edesrEc = 1#1) :=
  ⟨⟨rfl, ⟨by decide, by decide⟩, rfl⟩, ⟨rfl, ⟨by decide, by decide⟩, rfl⟩, rfl, ⟨by decide, by decide⟩, rfl, rfl⟩

def wSwitch : State := withSwitch (withAsync w2)

theorem witness_ReturnBeforeAsynchronousExceptionsWithSwitch :
    wSwitch.params.returnEcBeforeAsyncV8p2 = true ∧ wSwitch.params.cfg = .v8p2 ∧ wSwitch.Generated .ret :=
  ⟨rfl, rfl, by decide, by decide⟩

theorem witness_HooksContinueWhereNothingIsGenerated :
    (∀ k ∈ [EntryKind.entry, .ret, .reset],
      catchEnabled (machine .v8p2 ns1 0#32).params (machine .v8p2 ns1 0#32).edeccr (machine .v8p2 ns1 0#32).level k =
        some false) ∧
    (haltingAllowed (prohibited w8) = false ∧ (prohibited w8).params.ecWhenProhibited = .ignore) ∧
    (haltingAllowed (pends (prohibited w2)) = false ∧ (pends (prohibited w2)).params.cfg.haveDebugv8p8 = false ∧
      catchEnabled w2.params w2.edeccr w2.level .entry = some true) ∧
    (haltingAllowed (pends (prohibited w8)) = false ∧ EntryKind.ret = .ret) ∧
    (haltingAllowed (pends (prohibited (machine .v8p8 ns1 0#32))) = false ∧
      catchEnabled (params .v8p8) 0#32 ns1 .entry ≠ some true) := by decide

/-- Enabled, prohibited, and pended by the implementation. -/
def wPends : State := pends (prohibited (wReset .v8p8))

theorem witness_ProhibitedEntryMayBePended :
    wPends.params.ecWhenProhibited = .ignoreOrPend ∧ wPends.params.cfg.haveDebugv8p8 = true ∧
    haltingAllowed wPends = false ∧ wPends.halted = false ∧
    catchEnabled wPends.params wPends.edeccr wPends.level .entry = some true ∧
    catchEnabled wPends.params wPends.edeccr wPends.level .reset = some true := by decide

/-- At a pair without bits, with halting allowed. -/
def wNoBits : State :=
  { w2 with pstate := ⟨3, 0#64⟩, env := { w2.env with haltingAllowedAt := [⟨.nonSecure, 3⟩] } }

theorem witness_HooksRefuseExactlyPairsWithoutBits :
    (exec .opExcEntry wNoBits = .refused (.noCatchBits ⟨.nonSecure, 3⟩) ∧ haltingAllowed wNoBits = true ∧
      hasCatchBits wNoBits.params.cfg wNoBits.level = false) ∧
    exec .opInsnBoundary { wNoBits with params := params .v8p0 } = .refused (.noCatchBits ⟨.nonSecure, 3⟩) :=
  ⟨⟨rfl, by decide, by decide⟩, rfl⟩

/-- An `ERET` at (NonSecure, 1) that asks for EL2: illegal (P6). -/
def wIllegal : State := { machine .v8p2 ns1 0x2000#32 with el1 := { ElRegs.zero with spsr := ⟨2, 0x7#64⟩ } }

theorem witness_IllegalReturnIsJudgedAtTheCurrentLevel :
    (wIllegal.halted = false ∧ illegalNow wIllegal = true ∧ ∃ t, exec .eret wIllegal = .next t ∧ t.halted = true) ∧
    (wIllegalEl0.halted = false ∧ illegalNow wIllegalEl0 = true ∧
      ∃ u, runEnvMove .exceptionReturn wIllegalEl0 = .next u ∧ ∃ t, exec (.opExcReturn true) u = .next t ∧
        t.halted = true) :=
  ⟨⟨rfl, by decide, _, rfl, rfl⟩, rfl, by decide, _, rfl, _, rfl, rfl⟩

theorem witness_ReturnToTrappedLevelGeneratesAgain :
    w0.params.cfg = .v8p0 ∧ w0.Generated .entry ∧ (withAsync w0).params = w0.params ∧
    (withAsync w0).edeccr = w0.edeccr ∧ (withAsync w0).level = w0.level ∧ haltingAllowed (withAsync w0) = true :=
  ⟨rfl, ⟨by decide, by decide⟩, rfl, rfl, rfl, by decide⟩

theorem witness_BoundaryIsUnpredictableWithoutDebugv8p2 :
    (w0.params.cfg = .v8p0 ∧ haltingAllowed w0 = true ∧ hasCatchBits w0.params.cfg w0.level = true ∧
      eBit w0.edeccr w0.level = true) ∧
    eBit 0#32 w0.level = false ∧ haltingAllowed (prohibited w0) = false := by decide

theorem witness_NothingIsGeneratedBetweenEntriesWithDebugv8p2 :
    w2.params.cfg = .v8p2 ∧ (machine .v8p2Rme ns1 0x20#32).params.cfg = .v8p2Rme ∧
    (∃ t, exec .opExcEntry w2 = .next t ∧ w2.halted = false ∧ t.halted = true) ∧
    (∃ t, exec (.opWriteOseccr 0x20#32) w2 = .next t) ∧ ∃ t, exec .opA32StateChange w2 = .next t :=
  ⟨rfl, rfl, ⟨_, rfl, rfl, rfl⟩, ⟨_, rfl⟩, _, rfl⟩

theorem witness_BoundaryTakesThePendingEvent :
    (w8.params.cfg.haveDebugv8p8 = true ∧ w8.edesrEc = 1#1 ∧ haltingAllowed w8 = true) ∧
    ((prohibited w8).edesrEc = 1#1 ∧ haltingAllowed (prohibited w8) = false) ∧
    (machine .v8p8 ns1 0x20#32).edesrEc = 0#1 := by decide

theorem witness_PendingEventIgnoresEdeccr :
    w8.params.cfg.haveDebugv8p8 = true ∧ ∃ t, exec .opInsnBoundary w8 = .next t := ⟨rfl, _, rfl⟩

theorem witness_IsbDoesNotSettleTheUnpredictableCase :
    (∃ t, exec .opIsb w0 = .next t) ∧ w0.params.cfg = .v8p0 ∧ haltingAllowed w0 = true ∧
    hasCatchBits w0.params.cfg w0.level = true ∧ eBit w0.edeccr w0.level = true :=
  ⟨⟨_, rfl⟩, rfl, by decide, by decide, by decide⟩

theorem witness_HooksDoNothingInDebugState : (inDebug w8).halted = true := by decide

theorem witness_EdesrIsWriteOneToClear :
    w8.params.cfg.haveDebugv8p8 = true ∧ w2.params.cfg.haveDebugv8p8 = false ∧
    (0x8#32).getLsbD w8.params.edesrEcBit.val = true ∧ (0xFFFFFFF7#32).getLsbD w8.params.edesrEcBit.val = false := by
  decide

theorem witness_ReadsReturnTheStoredValue :
    w8.params.cfg.haveDebugv8p8 = true ∧ w2.params.cfg.haveDebugv8p8 = false := by decide

theorem witness_ExitFromDebugStateClearsThePendingBit :
    ((inDebug w8).halted = true ∧ (inDebug w8).params.cfg.haveDebugv8p8 = true) ∧
    ((inDebug w2).halted = true ∧ (inDebug w2).params.cfg.haveDebugv8p8 = false) ∧ w2.halted = false := by decide

theorem witness_LevelChangeHasNoEffectAtThatMoment :
    (∃ t, exec .opA32StateChange w0 = .next t) ∧
    (w0.params.cfg = .v8p0 ∧ haltingAllowed w0 = true ∧ hasCatchBits w0.params.cfg w0.level = true ∧
      eBit w0.edeccr w0.level = true) ∧
    (w2.params.cfg.haveDebugv8p2 = true ∧ w2.params.cfg.haveDebugv8p8 = false) ∧
    (machine .v8p8 ns1 0x20#32).edesrEc = 0#1 :=
  ⟨⟨_, rfl⟩, by decide, by decide, by decide⟩

theorem witness_IsbInstructionOnlyMovesThePc : w2.halted = false ∧ (inDebug w2).halted = true := by decide

theorem witness_EretReturnsThenCallsTheHook :
    (wLegal.halted = false ∧ elRegs wLegal.pstate.el wLegal = some wLegal.el2 ∧ illegalNow wLegal = false) ∧
    (wBefore.halted = false ∧ illegalNow wBefore = false ∧ wBefore.pstate.el = 0) ∧
    (wIllegal.halted = false ∧ illegalNow wIllegal = true) ∧
    (wIllegalEl0.halted = false ∧ illegalNow wIllegalEl0 = true) := by decide

theorem witness_EretCompletesOutsideDebugState :
    (wLegal.Inv ∧ wLegal.halted = false ∧ illegalNow wLegal = false ∧ wLegal.pstate.el ≠ 0) ∧
    (wBefore.Inv ∧ wBefore.halted = false ∧ illegalNow wBefore = false ∧ wBefore.pstate.el = 0) ∧
    (wIllegalEl0.Inv ∧ wIllegalEl0.halted = false ∧ illegalNow wIllegalEl0 = true) :=
  ⟨⟨witness_inv _ (by decide) (by decide) (by decide) (by decide), rfl, by decide, by decide⟩,
   ⟨witness_inv _ (by decide) (by decide) (by decide) (by decide), rfl, by decide, by decide⟩,
   witness_inv _ (by decide) (by decide) (by decide) (by decide), rfl, by decide⟩

/-- In Debug state, outside it, and a return to the pair (NonSecure, 3), which only parameters that do not fit together
have. -/
theorem witness_EretIsRefusedOnlyInDebugStateOrWithoutBits :
    (inDebug w2).halted = true ∧ w2.halted = false ∧
    exec .eret { wNoBits with params := { wNoBits.params with implemented := [⟨.nonSecure, 3⟩] },
                              el3 := { ElRegs.zero with spsr := ⟨3, 0#64⟩ } } =
      .refused (.noCatchBits ⟨.nonSecure, 3⟩) :=
  ⟨rfl, rfl, rfl⟩

/-- The hooks that halt a PE of the tests for certain, and `ERET`. -/
theorem witness_HaltSavesPcAndPstate :
    (∃ t, exec .opExcEntry w2 = .next t ∧ w2.halted = false ∧ t.halted = true) ∧
    (∃ t, exec (.opExcReturn false) w2 = .next t ∧ w2.halted = false ∧ t.halted = true) ∧
    ∃ t, exec .eret wLegal = .next t ∧ wLegal.halted = false ∧ t.halted = true :=
  ⟨⟨_, rfl, rfl, rfl⟩, ⟨_, rfl, rfl, rfl⟩, _, rfl, rfl, rfl⟩

theorem witness_DebugLinkChangesOnlyAtAHalt :
    ∃ t, exec .opExcEntry (machine .v8p2 ns1 0#32) = .next t ∧ t.lastOutcome ≠ .halted :=
  ⟨_, rfl, by decide⟩

theorem witness_DebugStateIsLeftOnlyByItsExit :
    ∃ t, exec .opExcEntry (inDebug w2) = .next t ∧ (inDebug w2).halted = true ∧ Instr.opExcEntry ≠ .opExitDebug :=
  ⟨_, rfl, rfl, by decide⟩

theorem witness_ComponentNeverWritesTheEnvironment :
    Instr.opExcEntry ≠ .eret ∧ Instr.opExcEntry ≠ .isb ∧ ∃ t, exec .opExcEntry w2 = .next t :=
  ⟨by decide, by decide, _, rfl⟩

theorem witness_EdeccrChangesOnlyByItsWrites :
    (∃ t, exec .opExcEntry w2 = .next t) ∧
    (∀ v, Instr.opExcEntry ≠ .opWriteEdeccr v ∧ Instr.opExcEntry ≠ .opWriteOseccr v) ∧
    Instr.opExcEntry ≠ .opReadEdeccr ∧ Instr.opExcEntry ≠ .opReadOseccr ∧ Instr.opExcEntry ≠ .opReadEdesr :=
  ⟨⟨_, rfl⟩, fun _ => ⟨nofun, nofun⟩, nofun, nofun, nofun⟩

/-- Every outcome set that sets `EDESR.EC` has a member that leaves it 0 (H5, H8), so no test can fix the bit's value:
the hypotheses are met at the alternative that the free choice 1 picks (H5's second). -/
theorem witness_PendingBitIsSetOnlyByEntryOrReset :
    (machine .v8p8 ns1 0x20#32).edesrEc = 0#1 ∧
    outcomes (entryHook .entry (machine .v8p8 ns1 0x20#32)) = [(.halted, dlr, 0#1), (.halted, dlr, 1#1)] ∧
    (Config.freeChoice 0 = 1 →
      ∃ t, exec .opExcEntry (machine .v8p8 ns1 0x20#32) = .next t ∧ t.edesrEc = 1#1) := by
  refine ⟨by decide, by decide, fun h => ⟨_, rfl, ?_⟩⟩
  change (OpOutcome.conclude (pick _ _ (Config.freeChoice 0))).edesrEc = 1#1
  rw [h]
  rfl

theorem witness_PendingBitIsClearedOnlyAsListed :
    (∃ t, exec (.opWriteEdesr 0x8#32) w8 = .next t ∧ w8.edesrEc = 1#1 ∧ t.edesrEc = 0#1) ∧
    ∃ t, exec .opExitDebug (inDebug w8) = .next t ∧ (inDebug w8).edesrEc = 1#1 ∧ t.edesrEc = 0#1 :=
  ⟨⟨_, rfl, rfl, rfl⟩, _, rfl, rfl, rfl⟩

/-- One input that does not name `EDESR`, and a write of 0 to its `EC` bit. -/
theorem witness_PendingEventSurvivesUntilTheHalt :
    (∃ t, step (given [.op .opIsb] w8) = .next t ∧ (given [.op .opIsb] w8).edesrEc = 1#1 ∧
      (given [.op .opIsb] w8).halted = false ∧ t.halted = false ∧
      ∀ r, Input.op .opIsb ≠ .env (.reset r)) ∧
    ∃ t, step (given [.op (.opWriteEdesr 0#32)] w8) = .next t ∧ w8.edesrEc = 1#1 ∧ t.halted = false ∧
      (0#32).getLsbD w8.params.edesrEcBit.val = false :=
  ⟨⟨_, rfl, rfl, rfl, rfl, nofun⟩, _, rfl, rfl, rfl, by decide⟩

/-- Address translation disabled at the level of the handler. -/
def wUntranslated : State := { w2 with env := { w2.env with translationDisabledAt := [ns1] } }

theorem witness_NoFetchFromTheVectorBeforeTheHalt :
    ∃ t, exec .opExcEntry wUntranslated = .next t ∧ wUntranslated.halted = false ∧ t.halted = true ∧
      translationDisabled wUntranslated = true := ⟨_, rfl, rfl, rfl, by decide⟩

theorem witness_ExceptionEntryWritesTheTargetsRegisters :
    wBefore.halted = false ∧ elRegs anException.target.el wBefore = some wBefore.el1 ∧
    wBefore.pstate.el ≤ anException.target.el ∧ wBefore.params.has anException.target = true ∧
    anException.handler = .aarch64 .aarch64 .spx ∧ wBefore.pstate.el < anException.target.el ∧
    anException.kind = .synchronous ∧ wBefore.el1.vbar.toNat + 0x400 < 2 ^ 64 ∧
    { anException with handler := .aarch32 0xffff0004#64 }.handler = .aarch32 0xffff0004#64 := by decide

theorem witness_ExceptionToNonSecureEl1IsCaughtAtItsVector :
    (let s := given [.env (.takeException anException), .op .opExcEntry] wBefore
     s.inbox = [.env (.takeException anException), .op .opExcEntry] ∧ s.edeccr = 0x0020#32 ∧ s.halted = false ∧
     s.level = ⟨.nonSecure, 0⟩ ∧ anException.target = ⟨.nonSecure, 1⟩ ∧ s.params.has ⟨.nonSecure, 1⟩ = true ∧
     (anException.handler = .aarch64 .aarch64 .spx) ∧ anException.kind = .synchronous ∧
     s.el1.vbar.toNat + 0x400 < 2 ^ 64 ∧ s.env.haltingAllowedAt.contains ⟨.nonSecure, 1⟩ = true ∧
     s.env.asyncExceptionAt.contains ⟨.nonSecure, 1⟩ = false ∧ s.env.asyncDebugEventPending = false) ∧
    (wLegal.edeccr = 0x0020#32 ∧ wLegal.halted = false ∧ elRegs wLegal.pstate.el wLegal = some wLegal.el2 ∧
     wLegal.pstate.el = 2 ∧ illegalNow wLegal = false ∧ wLegal.el2.spsr.el = 1 ∧ wLegal.env.eret.ss = .nonSecure ∧
     wLegal.env.haltingAllowedAt.contains ⟨.nonSecure, 1⟩ = true ∧
     wLegal.env.asyncExceptionAt.contains ⟨.nonSecure, 1⟩ = false ∧ wLegal.env.asyncDebugEventPending = false) ∧
    ((machine .v8p2 s3 0x20#32).edeccr = 0x0020#32 ∧ (machine .v8p2 s3 0x20#32).level ≠ ⟨.nonSecure, 1⟩ ∧
     hasCatchBits (machine .v8p2 s3 0x20#32).params.cfg (machine .v8p2 s3 0x20#32).level = true) := by decide

theorem witness_ResetEntryUsesTheParameters :
    { params .v8p2 with resetPreservesEdeccr := true }.resetPreservesEdeccr = true ∧
    (params .v8p2).resetPreservesEdeccr = false ∧ (params .v8p8).cfg.haveDebugv8p8 = true := by decide

/-- At each of the four points an event is due, with each order of the two step events. -/
theorem witness_PriorityAgainstOtherEvents :
    (pointOf .opExcEntry = some .entry ∧ eventDue .entry w2 = true) ∧
    (pointOf (.opExcReturn false) = some .ret ∧ eventDue .ret w2 = true) ∧
    (pointOf .opReset = some .reset ∧ eventDue .reset (wReset .v8p2) = true) ∧
    (pointOf .opInsnBoundary = some .boundary ∧ eventDue .boundary w8 = true ∧ eventDue .boundary w0 = true) ∧
    (w2.params.ecVsHaltingStep = .higher ∧ w2.params.ecVsSoftwareStep = .higher) ∧
    eventDue .entry { w2 with params := { w2.params with ecVsHaltingStep := .lower, ecVsSoftwareStep := .lower } } =
      true ∧
    (wLegal.halted = false ∧ illegalNow wLegal = false ∧ eventDue .ret (legalReturn wLegal) = true) ∧
    (wIllegal.halted = false ∧ illegalNow wIllegal = true ∧ eventDue .ret (illegalReturn wIllegal) = true) := by decide

theorem witness_NothingContendsWhereNoEventIsDue :
    (pointOf .opExcEntry = some .entry ∧ eventDue .entry (prohibited w2) = false) ∧
    (pointOf .opInsnBoundary = some .boundary ∧ eventDue .boundary w2 = false) ∧
    ∃ t, exec .opExcEntry (prohibited w2) = .next t :=
  ⟨by decide, by decide, _, rfl⟩

theorem witness_ResetMeetsTheInvariant : (params .v8p0).wellFormed = true ∧ Params.typical.wellFormed = true := by
  decide

theorem witness_EveryStepKeepsTheInvariant :
    (given [.op .opExcEntry] w2).Inv ∧ ∃ t, step (given [.op .opExcEntry] w2) = .next t ∧ t.halted = true :=
  ⟨witness_inv _ (by decide) (by decide) (by decide) (by decide), _, rfl, rfl⟩

theorem witness_EveryRunKeepsTheInvariant :
    (given [.op .opExcEntry, .op .opExitDebug] w2).Inv ∧
    ∃ t, Sys2Proof.core.run 2 (given [.op .opExcEntry, .op .opExitDebug] w2) = .next t ∧ t.dlrEl0 = dlr :=
  ⟨witness_inv _ (by decide) (by decide) (by decide) (by decide), _, rfl, rfl⟩

theorem witness_StepAnswersExactlyWhereTheInputHasAMeaning :
    (given [.op .opIsb] w2).Inv ∧ Safety.stepAllowed (given [.op .opIsb] w2) = true ∧
    Safety.stepAllowed (given [.op .opExitDebug] w2) = false :=
  ⟨witness_inv _ (by decide) (by decide) (by decide) (by decide), by decide, by decide⟩

theorem witness_PendingEventComesBeforeSynchronousEvents :
    (∀ r ∈ [Rank.higher, .lower], (wHeld r).params.cfg.haveDebugv8p8 = true ∧ (wHeld r).edesrEc = 1#1 ∧
      haltingAllowed (wHeld r) = true ∧ (wHeld r).params.ecVsSoftwareStep = r ∧ (wHeld r).params.ecVsHaltingStep = r ∧
      Safety.moveAllowed (.takeException { anException with kind := .softwareStep }) (wHeld r) = true) ∧
    anException.kind = .synchronous := by decide

theorem witness_ConfigurationNeverChanges : ∃ t, step (given [.op (.opWriteEdeccr 0#32)] w2) = .next t := ⟨_, rfl⟩

end Sys2Proof.Tests
end

section
/-! PROOFS. The statements of 00_scope.md: the invariant of every step and run (R6, R8), the frame of the component (R6),
the reach of the free choice (R8), which inputs are answered (R8), the fixed configuration (R3, R4). -/

namespace Sys2Proof.Machine

/-! ### What an operation of the component can do -/

/-- Everything an outcome of one of the 13 operations of 30_encoding.md R41 can be: a hook's, or that of a register
access, of the exit from Debug state, or of an operation with no effect. -/
inductive ComponentOutcome (s : State) : OpOutcome → Prop
  | hook {sets : Bool} {o : OpOutcome} : HookOutcome sets s o → ComponentOutcome s o
  | unchanged : ComponentOutcome s (.cont s)
  | edeccrWritten (v : Word) : ComponentOutcome s (.cont (withEdeccr v s))
  | edesrWritten (v : Word) : ComponentOutcome s (.cont (writeOneToClear v s))
  | valueRead (v : Word) : ComponentOutcome s (.cont (withReadData v s))
  | debugStateLeft : ComponentOutcome s (.cont (leaveDebugState s))

/-- Every instruction but the two A64 words is an operation of the component. -/
theorem exec_component_next {i : Instr} {s t : State} (heret : i ≠ .eret) (hisb : i ≠ .isb)
    (h : exec i s = .next t) : ∃ o, ComponentOutcome s o ∧ t = o.conclude := by
  rcases exec_next_cases i s t h with ⟨_, o, ho, ht, -⟩ | hi | ⟨-, hentry, hreset, hboundary, hreturn⟩
  · exact ⟨o, .hook ho, ht⟩
  · exact absurd hi heret
  · have plain := exec_plain_next i s t h
    cases i with
    | opExcEntry => exact absurd rfl hentry
    | opExcReturn f => exact absurd rfl (hreturn f)
    | opReset => exact absurd rfl hreset
    | opInsnBoundary => exact absurd rfl hboundary
    | opWriteEdeccr v => exact ⟨_, .edeccrWritten v, plain⟩
    | opWriteOseccr v => exact ⟨_, .edeccrWritten v, plain⟩
    | opWriteEdesr v => exact ⟨_, .edesrWritten v, plain⟩
    | opReadEdeccr => exact ⟨_, .valueRead s.edeccr, plain⟩
    | opReadOseccr => exact ⟨_, .valueRead s.edeccr, plain⟩
    | opReadEdesr =>
      obtain ⟨w, ht⟩ := plain
      exact ⟨_, .valueRead w, ht⟩
    | opExitDebug => exact ⟨_, .debugStateLeft, plain.2⟩
    | opIsb => exact ⟨_, .unchanged, plain⟩
    | opA32StateChange => exact ⟨_, .unchanged, plain⟩
    | eret => exact absurd rfl heret
    | isb => exact absurd rfl hisb

/-! ### The frame of the component -/

/-- The record of the outcome is no part of the environment. -/
theorem State.SameEnvironment.conclude {s : State} {o : OpOutcome} (h : s.SameEnvironment o.state) :
    s.SameEnvironment o.conclude :=
  ⟨h.params, h.currentSs, h.pstate, h.pc, h.el1, h.el2, h.el3, h.env, h.inbox⟩

theorem ComponentOutcome.sameEnvironment {s : State} {o : OpOutcome} (h : ComponentOutcome s o) :
    s.SameEnvironment o.state := by
  cases h with
  | hook ho => exact ho.frame.1
  | unchanged => exact ⟨rfl, rfl, rfl, rfl, rfl, rfl, rfl, rfl, rfl⟩
  | edeccrWritten v => exact ⟨rfl, rfl, rfl, rfl, rfl, rfl, rfl, rfl, rfl⟩
  | edesrWritten v => constructor <;> simp [OpOutcome.state]
  | valueRead v => exact ⟨rfl, rfl, rfl, rfl, rfl, rfl, rfl, rfl, rfl⟩
  | debugStateLeft => constructor <;> simp [OpOutcome.state]

theorem exec_sameEnvironment {i : Instr} {s t : State} (heret : i ≠ .eret) (hisb : i ≠ .isb)
    (h : exec i s = .next t) : s.SameEnvironment t := by
  obtain ⟨o, ho, rfl⟩ := exec_component_next heret hisb h
  exact ho.sameEnvironment.conclude

/-- Settles O42: every outcome of an operation of the component leaves the environment as it was. -/
theorem componentNeverWritesTheEnvironment : Obligations.ComponentNeverWritesTheEnvironment := by
  unfold Obligations.ComponentNeverWritesTheEnvironment
  exact fun _ _ _ => exec_sameEnvironment

/-! ### The configuration -/

theorem exec_params {i : Instr} {s t : State} (h : exec i s = .next t) : t.params = s.params := by
  by_cases heret : i = .eret
  · subst heret
    obtain ⟨r, o, hr, ho, rfl⟩ := exec_eret_next s t h
    exact ho.frame.1.params.trans (exceptionReturn_frame s r hr).1
  by_cases hisb : i = .isb
  · subst hisb
    obtain ⟨-, rfl⟩ := exec_plain_next .isb s t h
    rfl
  · exact (exec_sameEnvironment heret hisb h).params

@[simp] theorem withElRegs_params (el : EL) (r : ElRegs) (s : State) : (withElRegs el r s).params = s.params := by
  unfold withElRegs
  split <;> rfl

theorem envMove_params {m : EnvMove} {s t : State} (h : envMove m s = .ok t) : t.params = s.params := by
  have moved := envMove_ok m s t h
  cases m with
  | answers a => rw [show t = { s with env := a } from moved]
  | takeException e => obtain ⟨-, -, -, r, pc, rfl⟩ := moved; exact withElRegs_params _ _ _
  | exceptionReturn => obtain ⟨r, hr, rfl⟩ := moved; exact (exceptionReturn_frame s r hr).1
  | reset r => rw [show t = resetEntry r s from moved]; rfl
  | changeLevel lv pc rest => obtain ⟨-, -, rfl⟩ := moved; rfl
  | haltFor r => obtain ⟨-, -, rfl⟩ := moved; rfl
  | resume => obtain ⟨-, -, rfl⟩ := moved; rfl
  | execute pc rest => obtain ⟨-, rfl⟩ := moved; rfl
  | writeElRegs el r => obtain ⟨-, rfl⟩ := moved; exact withElRegs_params _ _ _

@[simp] theorem rivalHappens_params (r : Rival) (s : State) : (rivalHappens r s).params = s.params := by
  rcases rivalHappens_cases r s with h | ⟨_, h⟩ <;> rw [h]
  rfl

theorem ContendsAt.params {i : Instr} {a : Point} {s u : State} (h : ContendsAt i a s u) : u.params = s.params := by
  rcases h with ⟨-, rfl⟩ | ⟨-, -, f, hr⟩
  · rfl
  · exact (exceptionReturn_frame s _ hr).1

/-- Settles O59: neither an instruction, nor another event, nor a move of the environment writes the parameters. -/
theorem configurationNeverChanges : Obligations.ConfigurationNeverChanges := by
  unfold Obligations.ConfigurationNeverChanges
  intro s t h
  rcases step_next_cases s t h with ⟨-, rfl⟩ | ⟨x, xs, -, ⟨i, -, hi⟩ | ⟨r, i, u, a, -, hu, -, rfl⟩ | ⟨m, -, hm⟩⟩
  · rfl
  · exact (exec_params hi).trans (withInbox_params xs s)
  · exact (rivalHappens_params r u).trans hu.params
  · exact (envMove_params hm).trans (withInbox_params xs s)

/-! ### The invariant -/

/-- Outside Debug state the invariant asks nothing of `DLR_EL0` and `DSPSR_EL0`. -/
theorem State.Inv.of_running {t : State} (hfit : t.params.wellFormed = true) (hlevel : t.params.has t.level = true)
    (hec : t.params.cfg.haveDebugv8p8 = false → t.edesrEc = 0#1) (hrun : t.halted = false) : t.Inv :=
  ⟨hfit, hlevel, hec, fun hh => absurd hh (by simp [hrun])⟩

theorem State.Inv.conclude {o : OpOutcome} (h : o.state.Inv) : o.conclude.Inv :=
  ⟨h.params_fit, h.at_a_level, h.ec_absent, h.halt_saved⟩

theorem State.Inv.withInbox {s : State} (h : s.Inv) (xs : List Input) : (withInbox xs s).Inv :=
  ⟨h.params_fit, h.at_a_level, h.ec_absent, h.halt_saved⟩

theorem State.Inv.withElRegs {s : State} (h : s.Inv) (el : EL) (r : ElRegs) : (withElRegs el r s).Inv := by
  unfold Machine.withElRegs
  split
  · exact h
  all_goals exact ⟨h.params_fit, h.at_a_level, h.ec_absent, h.halt_saved⟩

/-- `EDESR.EC` may take any value where it exists. -/
theorem State.Inv.withEc {s : State} (h : s.Inv) (h8 : s.params.cfg.haveDebugv8p8 = true) (v : Bit) :
    (withEc v s).Inv :=
  ⟨h.params_fit, h.at_a_level, fun (habsent : s.params.cfg.haveDebugv8p8 = false) => by simp [habsent] at h8, h.halt_saved⟩

/-- A halt saves `PC` and `PSTATE`. -/
theorem State.Inv.enterDebugState {s : State} (h : s.Inv) (r : HaltReason) : (enterDebugState r s).Inv :=
  ⟨h.params_fit, h.at_a_level, h.ec_absent, fun _ => ⟨rfl, rfl⟩⟩

theorem State.Inv.caught {s : State} (h : s.Inv) (b : Bool) : (caught b s).Inv :=
  ⟨h.params_fit, h.at_a_level, h.ec_absent, fun _ => ⟨rfl, rfl⟩⟩

theorem State.Inv.writeOneToClear {s : State} (h : s.Inv) (v : Word) : (writeOneToClear v s).Inv := by
  rw [writeOneToClear_eq]
  refine ⟨h.params_fit, h.at_a_level, fun (h8 : s.params.cfg.haveDebugv8p8 = false) => ?_, h.halt_saved⟩
  simp [h8, h.ec_absent h8]

theorem State.Inv.leaveDebugState {s : State} (h : s.Inv) : (leaveDebugState s).Inv := by
  rw [leaveDebugState_eq]
  refine .of_running h.params_fit h.at_a_level (fun (h8 : s.params.cfg.haveDebugv8p8 = false) => ?_) rfl
  simp [h8, h.ec_absent h8]

theorem State.Inv.rivalHappens {s : State} (h : s.Inv) (r : Rival) : (rivalHappens r s).Inv := by
  rcases rivalHappens_cases r s with hr | ⟨x, hr⟩ <;> rw [hr]
  · exact h
  · exact h.enterDebugState x

theorem HookOutcome.inv {sets : Bool} {s : State} {o : OpOutcome} (ho : HookOutcome sets s o) (h : s.Inv) :
    o.state.Inv := by
  cases ho with
  | cont => exact h
  | pended _ h8 _ => exact h.withEc h8 1#1
  | halted b _ => exact h.caught b
  | drawn b v _ h8 _ => exact (h.caught b).withEc h8 v
  | yield _ => exact h
  | yieldHeld _ _ h8 => exact h.withEc h8 1#1

theorem ComponentOutcome.inv {s : State} {o : OpOutcome} (ho : ComponentOutcome s o) (h : s.Inv) : o.state.Inv := by
  cases ho with
  | hook ho => exact ho.inv h
  | unchanged => exact h
  | edeccrWritten v => exact ⟨h.params_fit, h.at_a_level, h.ec_absent, h.halt_saved⟩
  | edesrWritten v => exact h.writeOneToClear v
  | valueRead v => exact ⟨h.params_fit, h.at_a_level, h.ec_absent, h.halt_saved⟩
  | debugStateLeft => exact h.leaveDebugState

/-- A legal return goes to a pair the PE has, for one to any other pair is illegal (60_exceptions.md R112). -/
theorem has_legalReturn_level {s : State} (h : illegalNow s = false) : s.params.has (legalReturn s).level = true := by
  simp only [illegalNow, returnIsIllegal, Bool.or_eq_false_iff, Bool.not_eq_false'] at h
  exact h.2

theorem exceptionReturn_inv {s : State} {r : Returned} (h : s.Inv) (hr : exceptionReturn s = .ok r) :
    r.state.Inv := by
  obtain ⟨hrun, ⟨-, rfl⟩ | ⟨hlegal, rfl⟩⟩ := exceptionReturn_ok s r hr
  · exact .of_running h.params_fit h.at_a_level h.ec_absent hrun
  · exact .of_running h.params_fit (has_legalReturn_level hlegal) h.ec_absent hrun

theorem ContendsAt.inv {i : Instr} {a : Point} {s u : State} (hu : ContendsAt i a s u) (h : s.Inv) : u.Inv := by
  rcases hu with ⟨-, rfl⟩ | ⟨-, -, f, hr⟩
  · exact h
  · exact exceptionReturn_inv h hr

theorem exec_inv {i : Instr} {s t : State} (h : s.Inv) (ht : exec i s = .next t) : t.Inv := by
  by_cases heret : i = .eret
  · subst heret
    obtain ⟨r, o, hr, ho, rfl⟩ := exec_eret_next s t ht
    exact (ho.inv (exceptionReturn_inv h hr)).conclude
  by_cases hisb : i = .isb
  · subst hisb
    obtain ⟨hrun, rfl⟩ := exec_plain_next .isb s t ht
    exact .of_running h.params_fit h.at_a_level h.ec_absent hrun
  · obtain ⟨o, ho, rfl⟩ := exec_component_next heret hisb ht
    exact (ho.inv h).conclude

/-- A reset goes to the reset level, which the PE has, and out of Debug state (10_state.md R26). -/
theorem State.Inv.resetEntry {s : State} (h : s.Inv) (r : ResetEntry) : (resetEntry r s).Inv := by
  have hlevel : s.params.has s.params.resetLevel = true := by
    have hfit := h.params_fit
    simp only [Params.wellFormed, Bool.and_eq_true] at hfit
    exact hfit.2
  refine .of_running h.params_fit hlevel (fun (h8 : s.params.cfg.haveDebugv8p8 = false) => ?_) rfl
  simp [Machine.resetEntry, h8, h.ec_absent h8]

theorem envMove_inv {m : EnvMove} {s t : State} (h : s.Inv) (ht : envMove m s = .ok t) : t.Inv := by
  have moved := envMove_ok m s t ht
  cases m with
  | answers a =>
    rw [show t = { s with env := a } from moved]
    exact ⟨h.params_fit, h.at_a_level, h.ec_absent, h.halt_saved⟩
  | takeException e =>
    obtain ⟨hrun, -, hhas, r, pc, rfl⟩ := moved
    have hregs := h.withElRegs e.target.el r
    have hrun' : (withElRegs e.target.el r s).halted = false := by
      unfold withElRegs
      split <;> exact hrun
    exact .of_running hregs.params_fit (by simpa [State.level] using hhas) hregs.ec_absent hrun'
  | exceptionReturn =>
    obtain ⟨r, hr, rfl⟩ := moved
    exact exceptionReturn_inv h hr
  | reset r =>
    rw [show t = resetEntry r s from moved]
    exact h.resetEntry r
  | changeLevel lv pc rest =>
    obtain ⟨hrun, hhas, rfl⟩ := moved
    exact .of_running h.params_fit hhas h.ec_absent hrun
  | haltFor r =>
    obtain ⟨-, -, rfl⟩ := moved
    exact ⟨h.params_fit, h.at_a_level, h.ec_absent, fun _ => ⟨rfl, rfl⟩⟩
  | resume =>
    obtain ⟨hrun, hhas, rfl⟩ := moved
    exact .of_running h.params_fit hhas h.ec_absent hrun
  | execute pc rest =>
    obtain ⟨hrun, rfl⟩ := moved
    exact .of_running h.params_fit h.at_a_level h.ec_absent hrun
  | writeElRegs el r =>
    obtain ⟨-, rfl⟩ := moved
    exact h.withElRegs el r

theorem step_inv {s t : State} (h : s.Inv) (ht : step s = .next t) : t.Inv := by
  rcases step_next_cases s t ht with ⟨-, rfl⟩ | ⟨x, xs, -, ⟨i, -, hi⟩ | ⟨r, i, u, a, -, hu, -, rfl⟩ | ⟨m, -, hm⟩⟩
  · exact h
  · exact exec_inv (h.withInbox xs) hi
  · exact State.Inv.conclude (o := .yield _) ((hu.inv (h.withInbox xs)).rivalHappens r)
  · exact envMove_inv (h.withInbox xs) hm

/-- Settles O56: an idle step, an instruction, another event and a move of the environment each keep the invariant. -/
theorem everyStepKeepsTheInvariant : Obligations.EveryStepKeepsTheInvariant := by
  unfold Obligations.EveryStepKeepsTheInvariant
  exact fun _ _ => step_inv

/-- What every step keeps, every run keeps. -/
theorem run_keeps {P : State → Prop} (hstep : ∀ s t, P s → step s = .next t → P t) (n : Nat) :
    ∀ s t, P s → Sys2Proof.core.run n s = .next t → P t := by
  induction n with
  | zero =>
    intro s t hs ht
    exact Host.Outcome.next.inj ht ▸ hs
  | succ k ih =>
    intro s t hs ht
    simp only [Host.Core.run] at ht
    split at ht
    · rename_i u hu
      exact ih u t (hstep s u hs hu) ht
    · cases ht
    · cases ht

/-- Settles O57, by induction on the number of steps. -/
theorem everyRunKeepsTheInvariant : Obligations.EveryRunKeepsTheInvariant := by
  unfold Obligations.EveryRunKeepsTheInvariant
  exact run_keeps fun _ _ => step_inv

/-! ### The free choice -/

/-- Every member of an outcome set stands at some place. -/
theorem exists_pick_eq {first o : OpOutcome} {rest : List OpOutcome} (h : o ∈ first :: rest) :
    ∃ n, pick first rest n = o := by
  induction rest generalizing first with
  | nil => exact ⟨0, (List.mem_singleton.mp h).symm⟩
  | cons second rest ih =>
    rcases List.mem_cons.mp h with rfl | h
    · exact ⟨0, rfl⟩
    · obtain ⟨n, hn⟩ := ih h
      exact ⟨n + 1, hn⟩

/-- Settles O53: what is picked is a member, and every member is picked by its place. -/
theorem choiceReachesExactlyTheAlternatives : Obligations.ChoiceReachesExactlyTheAlternatives := by
  unfold Obligations.ChoiceReachesExactlyTheAlternatives
  intro first o rest
  constructor
  · rintro ⟨n, rfl⟩
    exact pick_mem first rest n
  · exact exists_pick_eq

/-! ### Which inputs are answered -/

theorem State.Inv.hasCatchBits {s : State} (h : s.Inv) : hasCatchBits s.params.cfg s.level = true :=
  hasCatchBits_of_has h.params_fit h.at_a_level

/-- At a pair the PE has `ERET` is answered exactly outside Debug state. -/
theorem exec_eret_answers_iff {s : State} (h : s.Inv) : s.halted = false ↔ ∃ t, exec .eret s = .next t := by
  constructor
  · intro hrun
    obtain ⟨r, hr⟩ := exceptionReturn_running s hrun
    obtain ⟨a, ha⟩ := (hooks_answer r.state (exceptionReturn_inv h hr).hasCatchBits).2.1
    obtain ⟨t, ht⟩ := settleOr_answers r.state ha
    exact ⟨t, by simp only [exec, execEret, hr, ht]⟩
  · rintro ⟨t, ht⟩
    obtain ⟨r, -, hr, -⟩ := exec_eret_next s t ht
    exact (exceptionReturn_ok s r hr).1

theorem exec_isb_answers_iff (s : State) : s.halted = false ↔ ∃ t, exec .isb s = .next t := by
  constructor
  · intro hrun
    exact ⟨_, if_neg (by simp [hrun])⟩
  · rintro ⟨t, ht⟩
    exact (exec_plain_next .isb s t ht).1

theorem exec_exitDebug_answers_iff (s : State) : s.halted = true ↔ ∃ t, exec .opExitDebug s = .next t := by
  constructor
  · intro hh
    exact ⟨_, if_pos hh⟩
  · rintro ⟨t, ht⟩
    exact (exec_plain_next .opExitDebug s t ht).1

/-- Hooks are answered at every pair that has bits, the other operations always, the exit from Debug state and the
program instructions by `Halted`. -/
theorem exec_answers_iff {s : State} (h : s.Inv) (i : Instr) :
    Safety.operationAllowed i s = true ↔ ∃ t, exec i s = .next t := by
  obtain ⟨hentry, ⟨_, hreturn⟩, ⟨_, hboundary⟩⟩ := hooks_answer s h.hasCatchBits
  cases i with
  | opExcEntry => exact iff_of_true rfl (settleOr_answers s (hentry .entry).choose_spec)
  | opExcReturn f => exact iff_of_true rfl (settleOr_answers s hreturn)
  | opReset => exact iff_of_true rfl (settleOr_answers s (hentry .reset).choose_spec)
  | opInsnBoundary => exact iff_of_true rfl (settleOr_answers s hboundary)
  | opWriteEdeccr v => exact iff_of_true rfl ⟨_, rfl⟩
  | opWriteOseccr v => exact iff_of_true rfl ⟨_, rfl⟩
  | opWriteEdesr v => exact iff_of_true rfl ⟨_, rfl⟩
  | opReadEdeccr => exact iff_of_true rfl ⟨_, rfl⟩
  | opReadOseccr => exact iff_of_true rfl ⟨_, rfl⟩
  | opReadEdesr => exact iff_of_true rfl ⟨_, rfl⟩
  | opExitDebug => exact exec_exitDebug_answers_iff s
  | opIsb => exact iff_of_true rfl ⟨_, rfl⟩
  | opA32StateChange => exact iff_of_true rfl ⟨_, rfl⟩
  | eret => simpa [Safety.operationAllowed] using exec_eret_answers_iff h
  | isb => simpa [Safety.operationAllowed] using exec_isb_answers_iff s

/-- An instruction that another event can contend with has a meaning. -/
theorem ContendsAt.operationAllowed {i : Instr} {a : Point} {s u : State} (h : ContendsAt i a s u) :
    Safety.operationAllowed i s = true := by
  rcases h with ⟨hpoint, -⟩ | ⟨rfl, -, f, hr⟩
  · cases i with
    | opExitDebug => cases hpoint
    | eret => cases hpoint
    | isb => cases hpoint
    | _ => rfl
  · simpa [Safety.operationAllowed] using (exceptionReturn_ok s _ hr).1

theorem contend_answers_iff {s : State} (h : s.Inv) (r : Rival) (i : Instr) :
    Safety.operationAllowed i s = true ↔ ∃ t, contend r i s = .next t := by
  rcases contend_cases r i s with hc | ⟨u, a, hu, -, hc⟩ <;> rw [hc]
  · exact exec_answers_iff h i
  · exact iff_of_true hu.operationAllowed ⟨_, rfl⟩

theorem runWord_answers_iff {s : State} (h : s.Inv) (w : Word) :
    Safety.inputAllowed (.insn w) s = true ↔ ∃ t, runWord w s = .next t := by
  cases hd : decode w with
  | ok i => simpa [Safety.inputAllowed, runWord, hd] using exec_answers_iff h i
  | error e =>
    cases e
    simp [Safety.inputAllowed, runWord, hd]

theorem whileRunning_answers_iff (c : Bool) (s u : State) :
    (!s.halted && c) = true ↔ ∃ t, whileRunning c s u = .ok t := by
  unfold whileRunning
  cases s.halted <;> cases c <;> simp

/-- An exception is taken exactly to EL1, EL2 or EL3, outside Debug state, to no lower level, to a pair the PE has. -/
theorem takeException_answers_iff (e : ExceptionEntry) (s : State) :
    Safety.moveAllowed (.takeException e) s = true ↔ ∃ t, takeException e s = .ok t := by
  by_cases h0 : e.target.el = 0
  · refine iff_of_false (by simp [Safety.moveAllowed, h0]) ?_
    rintro ⟨t, ht⟩
    obtain ⟨-, hel, -⟩ := envMove_ok (.takeException e) s t ht
    exact hel h0
  · obtain ⟨r, hregs⟩ := elRegs_above_el0 s h0
    simp only [takeException, hregs]
    split_ifs with hh hc
    · exact iff_of_false (by simp [Safety.moveAllowed, hh]) (by simp)
    · exact iff_of_true (by simp [Safety.moveAllowed, hh, h0, hc]) ⟨_, rfl⟩
    · exact iff_of_false (by simpa [Safety.moveAllowed, hh, h0] using hc) (by simp)

theorem envMove_answers_iff (m : EnvMove) (s : State) :
    Safety.moveAllowed m s = true ↔ ∃ t, envMove m s = .ok t := by
  cases m with
  | answers a => exact iff_of_true rfl ⟨_, rfl⟩
  | takeException e => exact takeException_answers_iff e s
  | exceptionReturn => cases hh : s.halted <;> simp [Safety.moveAllowed, envMove, exceptionReturn, hh, Except.map]
  | reset r => exact iff_of_true rfl ⟨_, rfl⟩
  | changeLevel lv pc rest => exact whileRunning_answers_iff _ s _
  | haltFor r => exact whileRunning_answers_iff _ s _
  | resume => exact whileRunning_answers_iff _ s _
  | execute pc rest => simpa [Safety.moveAllowed, envMove] using whileRunning_answers_iff true s _
  | writeElRegs el r => by_cases h0 : el = 0 <;> simp [Safety.moveAllowed, envMove, h0]

theorem runEnvMove_answers_iff (m : EnvMove) (s : State) :
    Safety.moveAllowed m s = true ↔ ∃ t, runEnvMove m s = .next t := by
  rw [envMove_answers_iff, runEnvMove]
  cases envMove m s <;> simp

theorem runInput_answers_iff {s : State} (h : s.Inv) (x : Input) :
    Safety.inputAllowed x s = true ↔ ∃ t, runInput x s = .next t := by
  cases x with
  | env m => exact runEnvMove_answers_iff m s
  | op i => exact exec_answers_iff h i
  | contend r i => exact contend_answers_iff h r i
  | insn w => exact runWord_answers_iff h w

/-- Whether an input has a meaning does not depend on the inputs after it. -/
theorem inputAllowed_withInbox (x : Input) (xs : List Input) (s : State) :
    Safety.inputAllowed x (withInbox xs s) = Safety.inputAllowed x s := rfl

/-- Settles O58: with an empty queue a step is idle, otherwise it runs the first input. -/
theorem stepAnswersExactlyWhereTheInputHasAMeaning : Obligations.StepAnswersExactlyWhereTheInputHasAMeaning := by
  unfold Obligations.StepAnswersExactlyWhereTheInputHasAMeaning
  intro s h
  cases hx : s.inbox with
  | nil => simp [Safety.stepAllowed, step, runNext, hx]
  | cons x xs =>
    simp only [Safety.stepAllowed, step, runNext, hx]
    rw [← inputAllowed_withInbox x xs s]
    exact runInput_answers_iff (h.withInbox xs) x

/-! ### The configurations -/

/-- Settles O1: the eight combinations of features, and the five configurations, case by case. -/
theorem featuresFormFiveConfigurations : Obligations.FeaturesFormFiveConfigurations := by
  unfold Obligations.FeaturesFormFiveConfigurations
  constructor
  · decide
  · intro c
    cases c <;> rfl

end Sys2Proof.Machine
end

section
/-! PROOFS. The statements of 10_state.md: the layout of `EDECCR` (R12 to R14), Debug state and its exit (R18), the
state after reset (R26). -/

namespace Sys2Proof.Machine

/-! ### The bits of `EDECCR` (R12 to R14) -/

/-- Settles O7: each bank's *E* bits start at its base, its *R* bits at the bank's distance above them. -/
theorem bankBitPositions : Obligations.BankBitPositions := by
  unfold Obligations.BankBitPositions
  intro v n
  refine ⟨⟨?_, ?_⟩, ⟨rfl, ?_⟩, ⟨rfl, ?_⟩, rfl, rfl⟩
  · exact congrArg v.getLsbD (show 0 + n.val = n.val by omega)
  · exact congrArg v.getLsbD (show 0 + n.val + 8 = 8 + n.val by omega)
  · exact congrArg v.getLsbD (show 4 + n.val + 8 = 12 + n.val by omega)
  · exact congrArg v.getLsbD (show 16 + n.val + 4 = 20 + n.val by omega)

theorem catchEnabled_eq_some_true_iff (p : Params) (v : Word) (lv : Level) (k : EntryKind) :
    catchEnabled p v lv k = some true ↔ hasCatchBits p.cfg lv = true ∧ catchHit p v lv k = true := by
  simp [catchEnabled]

/-- With the *R* bit 0 an exception taken and a return are judged alike in every configuration, by the *E* bit. -/
theorem catchHit_of_rBit_eq_false (p : Params) {v : Word} {lv : Level} {k : EntryKind} (hr : rBit v lv = false)
    (hk : k ≠ .reset) : catchHit p v lv k = eBit v lv := by
  have row : twoBitHit (rBit v lv) (eBit v lv) k = eBit v lv := by
    rw [hr]
    cases eBit v lv <;> rfl
  simp [catchHit, row, hk]

theorem rBit_anchor (lv : Level) : rBit 0x0020#32 lv = false := by
  obtain ⟨ss, el⟩ := lv
  cases ss <;> revert el <;> decide

/-- Bit 5 is `NSE1` and no other pair's *E* bit. -/
theorem eBit_anchor_iff (lv : Level) : eBit 0x0020#32 lv = true ↔ lv = ⟨.nonSecure, 1⟩ := by
  obtain ⟨ss, el⟩ := lv
  cases ss <;> revert el <;> decide

/-- Settles O6: the anchor's *R* bits are all 0, so that the *E* bit decides, and that is set for Non-secure EL1 alone. -/
theorem anchorValueEnablesNonSecureEl1Only : Obligations.AnchorValueEnablesNonSecureEl1Only := by
  unfold Obligations.AnchorValueEnablesNonSecureEl1Only
  intro p lv k hk
  rw [catchEnabled_eq_some_true_iff, catchHit_of_rBit_eq_false p (rBit_anchor lv) hk, eBit_anchor_iff]
  exact and_iff_right_of_imp fun h => h ▸ rfl

/-- `CatchEnabled` reads the pair's *E* bit, and its *R* bit where the control table has two bits. -/
theorem catchHit_congr (p : Params) {v w : Word} {lv : Level} (k : EntryKind) (he : eBit v lv = eBit w lv)
    (hr : (p.cfg.haveDebugv8p2 || p.cfg.haveRme) = true → rBit v lv = rBit w lv) :
    catchHit p v lv k = catchHit p w lv k := by
  unfold catchHit
  rw [he]
  split
  · rw [hr ‹_›]
  · rfl

/-- The bits of `EDECCR` that R12's table assigns, of the families the configuration has (R14). -/
def assignedBits (c : Configuration) : Word :=
  if c.haveRme then 0x00777F7F#32 else if c.haveDebugv8p2 then 0x00007F7F#32 else 0x0000007F#32

theorem eBit_assigned {c : Configuration} {lv : Level} (h : hasCatchBits c lv = true) :
    (assignedBits c).getLsbD (bankBase lv.ss + lv.el.val) = true := by
  obtain ⟨ss, el⟩ := lv
  cases c <;> cases ss <;> revert el <;> decide

theorem rBit_assigned {c : Configuration} {lv : Level} (h : hasCatchBits c lv = true)
    (htwo : (c.haveDebugv8p2 || c.haveRme) = true) :
    (assignedBits c).getLsbD (bankBase lv.ss + lv.el.val + rDelta lv.ss) = true := by
  obtain ⟨ss, el⟩ := lv
  cases c <;> cases ss <;> revert htwo el <;> decide

/-- Words that agree under a mask agree at each of its places. -/
theorem getLsbD_eq_of_and_eq {v w mask : Word} (h : v &&& mask = w &&& mask) {n : Nat} (hn : mask.getLsbD n = true) :
    v.getLsbD n = w.getLsbD n := by
  simpa [BitVec.getLsbD_and, hn] using congrArg (·.getLsbD n) h

/-- Settles O12: at a pair that has bits, the bits `CatchEnabled` reads are assigned ones; it refuses any other pair. -/
theorem unassignedBitsAreNeverRead : Obligations.UnassignedBitsAreNeverRead := by
  unfold Obligations.UnassignedBitsAreNeverRead
  intro p v w lv k assigned (h : v &&& assignedBits p.cfg = w &&& assignedBits p.cfg)
  unfold catchEnabled
  split
  · rename_i hbits
    exact congrArg some (catchHit_congr p k (getLsbD_eq_of_and_eq h (eBit_assigned hbits))
      fun htwo => getLsbD_eq_of_and_eq h (rBit_assigned hbits htwo))
  · rfl

/-! ### Debug state (R18) -/

/-- A hook invoked in Debug state changes nothing (D4). -/
theorem HookOutcome.eq_cont_of_halted {sets : Bool} {s : State} {o : OpOutcome} (ho : HookOutcome sets s o)
    (h : s.halted = true) : o = .cont s := by
  have hallow := haltingAllowed_of_halted s h
  cases ho with
  | cont => rfl
  | pended _ _ hrun => simp [h] at hrun
  | halted _ ha => simp [hallow] at ha
  | drawn _ _ ha => simp [hallow] at ha
  | yield ha => simp [hallow] at ha
  | yieldHeld ha => simp [hallow] at ha

theorem exceptionReturn_halted {s : State} (h : s.halted = true) : exceptionReturn s = .error .inDebugState :=
  if_pos h

theorem exec_eret_halted {s : State} (h : s.halted = true) : exec .eret s = .refused .inDebugState := by
  simp only [exec, execEret, exceptionReturn_halted h]

/-- Settles O41: in Debug state the hooks change nothing, the two A64 words are refused, and of the other operations
only the exit writes Debug state. -/
theorem debugStateIsLeftOnlyByItsExit : Obligations.DebugStateIsLeftOnlyByItsExit := by
  unfold Obligations.DebugStateIsLeftOnlyByItsExit
  intro i s t h hh hexit
  rcases exec_next_cases i s t h with ⟨_, o, ho, rfl, -⟩ | rfl | ⟨heret, hentry, hreset, hboundary, hreturn⟩
  · rw [ho.eq_cont_of_halted hh]
    rfl
  · simp [exec_eret_halted hh] at h
  · have plain := exec_plain_next i s t h
    cases i with
    | opExcEntry => exact absurd rfl hentry
    | opExcReturn f => exact absurd rfl (hreturn f)
    | opReset => exact absurd rfl hreset
    | opInsnBoundary => exact absurd rfl hboundary
    | opExitDebug => exact absurd rfl hexit
    | eret => exact absurd rfl heret
    | isb => simp [hh] at plain
    | opReadEdesr =>
      obtain ⟨w, rfl⟩ := plain
      rfl
    | _ => simp [plain]

/-- A return hook is refused only at a pair without bits. -/
theorem returnHook_error {s : State} {r : Refusal} (h : returnHook s = .error r) :
    r = .noCatchBits s.level ∧ hasCatchBits s.params.cfg s.level = false := by
  unfold returnHook at h
  rcases commonCheck_cases .ret s with ⟨hc, -⟩ | ⟨hc, -⟩ | ⟨hc, -, hbits⟩ <;> simp only [hc] at h
  · cases h
  · cases h
  · exact ⟨(Except.error.inj h).symm, hbits⟩

/-- Outside Debug state `ERET` is refused only by the hook, at the pair its return has gone to. -/
theorem exec_eret_refused {s : State} {r : Refusal} (hrun : s.halted = false) (h : exec .eret s = .refused r) :
    ∃ lv, r = .noCatchBits lv ∧ hasCatchBits s.params.cfg lv = false := by
  obtain ⟨ret, hret⟩ := exceptionReturn_running s hrun
  simp only [exec, execEret, hret, settleOr_refused] at h
  obtain ⟨hr, hbits⟩ := returnHook_error h
  rw [(exceptionReturn_frame s ret hret).1] at hbits
  exact ⟨ret.state.level, hr, hbits⟩

/-- Settles O38: in Debug state there is no exception return, and outside it there always is one, so that only the hook
can refuse. -/
theorem eretIsRefusedOnlyInDebugStateOrWithoutBits : Obligations.EretIsRefusedOnlyInDebugStateOrWithoutBits := by
  unfold Obligations.EretIsRefusedOnlyInDebugStateOrWithoutBits
  intro s
  constructor
  · intro hh
    refine ⟨exec_eret_halted hh, ?_⟩
    simp [runEnvMove, envMove, exceptionReturn_halted hh, Except.map]
  · intro hrun
    refine ⟨(runEnvMove_answers_iff .exceptionReturn s).mp (by simp [Safety.moveAllowed, hrun]), ?_⟩
    exact fun r => exec_eret_refused hrun

/-! ### The state after reset (R26) -/

@[simp] theorem resetOf_params (p : Params) : (State.resetOf p).params = p := rfl
@[simp] theorem resetOf_edeccr (p : Params) : (State.resetOf p).edeccr = p.edeccrReset := rfl
@[simp] theorem resetOf_edesrEc (p : Params) :
    (State.resetOf p).edesrEc = if p.cfg.haveDebugv8p8 then p.edesrEcReset else 0#1 := rfl
@[simp] theorem resetOf_level (p : Params) : (State.resetOf p).level = p.resetLevel := rfl
@[simp] theorem resetOf_halted (p : Params) : (State.resetOf p).halted = false := rfl

/-- Settles O54, field by field; `EDESR.EC` takes its parameter where the bit exists. -/
theorem resetStateIsTheParameters : Obligations.ResetStateIsTheParameters := by
  unfold Obligations.ResetStateIsTheParameters
  refine ⟨fun p => ⟨resetOf_params p, resetOf_edeccr p, fun h8 => ?_, resetOf_level p, resetOf_halted p⟩, rfl⟩
  rw [resetOf_edesrEc, if_pos h8]

/-- Parameters that fit together reset the PE into a pair it has. -/
theorem has_resetLevel {p : Params} (h : p.wellFormed = true) : p.has p.resetLevel = true := by
  simp only [Params.wellFormed, Bool.and_eq_true] at h
  exact h.2

theorem resetOf_inv {p : Params} (h : p.wellFormed = true) : (State.resetOf p).Inv :=
  .of_running h (has_resetLevel h) (fun (h8 : p.cfg.haveDebugv8p8 = false) => by simp [h8]) rfl

theorem typical_wellFormed : Params.typical.wellFormed = true := by decide

/-- Settles O55: the PE is reset outside Debug state into a pair it has; the typical parameters fit together. -/
theorem resetMeetsTheInvariant : Obligations.ResetMeetsTheInvariant := by
  unfold Obligations.ResetMeetsTheInvariant
  exact ⟨fun _ => resetOf_inv, resetOf_inv typical_wellFormed⟩

end Sys2Proof.Machine
end

section
/-! PROOFS. The statement of 20_memory.md: no fetch from the vector address before the halt (R31). -/

namespace Sys2Proof.Machine

theorem fetchBeforeHalt_of_translationDisabled {s : State} (h : translationDisabled s = true) :
    fetchBeforeHalt true s = false := by
  simp [fetchBeforeHalt, h]

/-- The outcome's state is the one before, or that state caught as the entry asks (`afterEntry`), but for `EDESR.EC`. -/
def EntryState (afterEntry : Bool) (s : State) (o : OpOutcome) : Prop :=
  ∃ v, o.state = withEc v s ∨ o.state = withEc v (caught afterEntry s)

theorem entryState_of_mem_haltAlternatives {ec : EcOnHalt} {b : Bool} {s : State} {o : OpOutcome}
    (h : o ∈ (haltAlternatives ec b s).toList) : EntryState b s o := by
  rcases mem_haltAlternatives ec b s o h with rfl | ⟨-, -, v, rfl⟩
  · exact ⟨s.edesrEc, .inr rfl⟩
  · exact ⟨v, .inr rfl⟩

/-- A value written to `EDESR.EC` before the hook does not show. -/
theorem EntryState.of_withEc {b : Bool} {v : Bit} {s : State} {o : OpOutcome} (h : EntryState b (withEc v s) o) :
    EntryState b s o := h

theorem entryState_of_mem_entryAlternatives {b : Bool} {s : State} {o : OpOutcome}
    (h : o ∈ (entryAlternatives b s).toList) : EntryState b s o := by
  unfold entryAlternatives at h
  split_ifs at h
  · rcases (mem_addIf _ _ _ _).mp h with h | ⟨-, rfl⟩
    · exact (entryState_of_mem_haltAlternatives h).of_withEc
    · exact ⟨1#1, .inl rfl⟩
  · exact entryState_of_mem_haltAlternatives h
  · rcases (mem_addIf _ _ _ _).mp h with h | ⟨-, rfl⟩
    · exact entryState_of_mem_haltAlternatives h
    · exact ⟨s.edesrEc, .inl rfl⟩

theorem entryState_of_mem_notGenerated {k : EntryKind} (b : Bool) {s : State} {o : OpOutcome}
    (h : o ∈ (notGenerated k s).toList) : EntryState b s o := by
  rcases (mem_addIf _ _ _ _).mp h with h | ⟨-, rfl⟩
  · obtain rfl : o = .cont s := by simpa using h
    exact ⟨s.edesrEc, .inl rfl⟩
  · exact ⟨1#1, .inl rfl⟩

/-- Unlike `HookOutcome`, this says that the halt is the one of the hook's own kind. -/
theorem entryState_of_mem_entryHook {k : EntryKind} {s : State} {a : Alternatives} {o : OpOutcome}
    (hk : entryHook k s = .ok a) (h : o ∈ a.toList) : EntryState (k == .entry) s o := by
  unfold entryHook at hk
  split at hk
  · cases hk
  · cases hk
    exact entryState_of_mem_entryAlternatives h
  · cases hk
    exact entryState_of_mem_notGenerated _ h

theorem exec_opExcEntry_next {s t : State} (h : exec .opExcEntry s = .next t) :
    ∃ o, EntryState true s o ∧ t = o.conclude := by
  obtain ⟨a, ha, o, ho, rfl⟩ := settleOr_next _ _ _ h
  exact ⟨o, entryState_of_mem_entryHook ha ho, rfl⟩

/-- Settles O47: a PE that was not halted before is caught after an entry, and that catch fetches nothing where
translation is disabled. -/
theorem noFetchFromTheVectorBeforeTheHalt : Obligations.NoFetchFromTheVectorBeforeTheHalt := by
  unfold Obligations.NoFetchFromTheVectorBeforeTheHalt
  intro s t h hrun hhalt htr
  obtain ⟨o, ⟨v, ho | ho⟩, rfl⟩ := exec_opExcEntry_next h
  · have unhalted : o.conclude.halted = s.halted := by simp [State.halted, ho]
    simp [unhalted, hrun] at hhalt
  · simpa [ho] using fetchBeforeHalt_of_translationDisabled htr

end Sys2Proof.Machine
end

section
/-! PROOFS. The statements of 30_encoding.md: the two instruction words (R43), which the operations do not have (R40),
what a step does with its next input (R41, R45), and the meaning of `ERET` and `ISB` (R43). -/

namespace Sys2Proof.Machine

/-! ### Decode and encode (R40, R43) -/

/-- A decoded word fits a row of the table, and that row's instruction is the result. -/
theorem exists_row_of_decodeRows {rows : List OpcodeRow} {w : Word} {i : Instr} (h : decodeRows rows w = .ok i) :
    ∃ r ∈ rows, r.fits w = true ∧ r.instr = i := by
  induction rows with
  | nil => cases h
  | cons r rs ih =>
    simp only [decodeRows] at h
    split at h
    · rename_i hfits
      exact ⟨r, List.mem_cons_self, hfits, Except.ok.inj h⟩
    · obtain ⟨r', hmem, hrow⟩ := ih h
      exact ⟨r', List.mem_cons_of_mem r hmem, hrow⟩

/-- Every row of the table fixes the whole word, and that word is its instruction's. -/
theorem opcodeRows_fixed {r : OpcodeRow} (h : r ∈ opcodeRows) :
    r.mask = BitVec.allOnes 32 ∧ encode r.instr = some r.pattern := by
  revert r
  decide

/-- A row whose mask covers the word fits its pattern only. -/
theorem OpcodeRow.eq_pattern_of_fits {r : OpcodeRow} {w : Word} (hmask : r.mask = BitVec.allOnes 32)
    (h : r.fits w = true) : w = r.pattern := by
  simpa only [OpcodeRow.fits, hmask, BitVec.and_allOnes, beq_iff_eq] using h

theorem encode_of_decode {i : Instr} {w : Word} (h : decode w = .ok i) : encode i = some w := by
  obtain ⟨r, hmem, hfits, rfl⟩ := exists_row_of_decodeRows h
  obtain ⟨hmask, hword⟩ := opcodeRows_fixed hmem
  rw [hword, OpcodeRow.eq_pattern_of_fits hmask hfits]

/-- Only `ERET` and `ISB` have a word. -/
theorem decode_of_encode {i : Instr} {w : Word} (h : encode i = some w) : decode w = .ok i := by
  cases i with
  | eret => exact (Laws.WordRoundTrip.eret w h).1
  | isb => exact (Laws.WordRoundTrip.isb w h).1
  | _ => cases h

/-- Settles O2: an instruction's word decodes to it, and a decoded word is the fixed pattern of its row. -/
theorem decodeAgreesWithEncode : Obligations.DecodeAgreesWithEncode := by
  unfold Obligations.DecodeAgreesWithEncode
  exact fun _ _ => ⟨decode_of_encode, encode_of_decode⟩

/-- Settles O3: the two words decode through their encodings; the neighbours are evaluated. -/
theorem tableWordsDecodeAsTheSpecSays : Obligations.TableWordsDecodeAsTheSpecSays := by
  unfold Obligations.TableWordsDecodeAsTheSpecSays
  exact ⟨decode_of_encode rfl, decode_of_encode rfl, by decide, by decide, by decide, by decide⟩

/-! ### A step and its next input (R41, R45) -/

theorem step_of_inbox_nil {s : State} (h : s.inbox = []) : step s = .next s := by
  simp only [step, runNext, h]

theorem step_of_inbox_cons {s : State} {x : Input} {xs : List Input} (h : s.inbox = x :: xs) :
    step s = runInput x (withInbox xs s) := by
  simp only [step, runNext, h]

theorem runInput_insn_of_decode {w : Word} {i : Instr} (s : State) (h : decode w = .ok i) :
    runInput (.insn w) s = exec i s := by
  simp only [runInput, runWord, h]

theorem runInput_insn_of_notInSpec {w : Word} (s : State) (h : decode w = .error (.notInSpec w)) :
    runInput (.insn w) s = .refused (.wordNotInSpec w) := by
  simp only [runInput, runWord, h]

theorem decode_tableWord {nbits w : Nat} {i : Instr} (h : decodeTableWord nbits w = some i) :
    decode (tableWord nbits w) = .ok i := by
  unfold decodeTableWord at h
  split at h
  · rename_i hd
    rw [hd, Option.some.inj h]
  · cases h

/-- Settles O4: a step runs the word at the head of the queue; taking a placed word gives the state before back. -/
theorem stepRunsDecodedInstruction : Obligations.StepRunsDecodedInstruction := by
  unfold Obligations.StepRunsDecodedInstruction
  refine ⟨fun s w xs i hx hd => ?_, fun s w xs hx hd => ?_, fun s nbits w i hd => ?_⟩
  · rw [step_of_inbox_cons hx, runInput_insn_of_decode _ hd]
  · rw [step_of_inbox_cons hx, runInput_insn_of_notInSpec _ hd]
  · have head : (s.withFetchWord nbits w).inbox = .insn (tableWord nbits w) :: s.inbox := rfl
    have taken : withInbox s.inbox (s.withFetchWord nbits w) = s := rfl
    rw [step_of_inbox_cons head, runInput_insn_of_decode _ (decode_tableWord hd), taken]

/-- Settles O5: each kind of input at the head of the queue is run as such, and an empty queue leaves the state. -/
theorem stepRunsTheNextInput : Obligations.StepRunsTheNextInput := by
  unfold Obligations.StepRunsTheNextInput
  exact ⟨fun _ _ _ => step_of_inbox_cons, fun _ _ _ => step_of_inbox_cons, fun _ _ _ _ => step_of_inbox_cons,
    fun _ => step_of_inbox_nil⟩

/-! ### `ISB` (R43, R96) -/

theorem exec_isb_running {s : State} (h : s.halted = false) :
    exec .isb s = .next (OpOutcome.cont { s with pc := s.env.nextPc }).conclude := by
  simp only [exec, execIsb, h, Bool.false_eq_true, if_false, continueWith_eq]

theorem exec_isb_halted {s : State} (h : s.halted = true) : exec .isb s = .refused .inDebugState := by
  simp only [exec, execIsb, h, if_true]

/-- Settles O35, outside Debug state and in it. -/
theorem isbInstructionOnlyMovesThePc : Obligations.IsbInstructionOnlyMovesThePc := by
  unfold Obligations.IsbInstructionOnlyMovesThePc
  exact fun _ => ⟨exec_isb_running, exec_isb_halted⟩

/-! ### `ERET` (R43, R64, R65) -/

/-- A legal `ERET` is the environment's return followed by the hook at the level it goes to. -/
theorem exec_eret_of_legal {s : State} (hrun : s.halted = false) (hlegal : illegalNow s = false) :
    exec .eret s = exec (.opExcReturn false) (legalReturn s) := by
  simp only [exec, execEret, execOpExcReturn, exceptionReturn, hrun, hlegal, Bool.false_eq_true, if_false]

/-- An illegal `ERET` is the environment's return followed by the hook at the level it stays at. -/
theorem exec_eret_of_illegal {s : State} (hrun : s.halted = false) (hillegal : illegalNow s = true) :
    exec .eret s = exec (.opExcReturn true) (illegalReturn s) := by
  simp only [exec, execEret, execOpExcReturn, exceptionReturn, hrun, hillegal, Bool.false_eq_true, if_false, if_true]

/-- Above EL0 a return asks for what the registers of the current level hold. -/
theorem returnState_of_elRegs {s : State} {r : ElRegs} (h : elRegs s.pstate.el s = some r) :
    returnState s = ⟨r.elr, r.spsr⟩ := by
  simp only [returnState, h]

/-- At EL0, which has no such registers, a return asks for what the environment gives. -/
theorem returnState_of_el0 {s : State} (h : s.pstate.el = 0) :
    returnState s = ⟨s.env.eret.pc, ⟨0, s.env.eret.rest⟩⟩ := by
  simp only [returnState, elRegs, h]

/-- Settles O36: the state after a legal return is the one the return asks for, above EL0 and at EL0; an illegal return
leaves the level. -/
theorem eretReturnsThenCallsTheHook : Obligations.EretReturnsThenCallsTheHook := by
  unfold Obligations.EretReturnsThenCallsTheHook
  intro s hrun
  refine ⟨fun hlegal r hr => ?_, fun hlegal h0 => ?_, exec_eret_of_illegal hrun⟩
  · rw [exec_eret_of_legal hrun hlegal, legalReturn, returnState_of_elRegs hr]
  · rw [exec_eret_of_legal hrun hlegal, legalReturn, returnState_of_el0 h0]

/-- The hook of an exception return leaves the environment, `EDECCR` and the last read value alone. -/
theorem exec_opExcReturn_frame {f : Bool} {s t : State} (h : exec (.opExcReturn f) s = .next t) :
    s.SameEnvironment t ∧ t.edeccr = s.edeccr ∧ t.readData = s.readData := by
  obtain ⟨o, ho, rfl⟩ := (exec_hook_next _ s t h).2 (.inl ⟨f, rfl⟩)
  obtain ⟨henv, hedeccr, hread⟩ := ho.frame
  exact ⟨henv.conclude, hedeccr, hread⟩

/-- Settles O37: outside Debug state `ERET` answers, and the hook after the return leaves what the return restored. -/
theorem eretCompletesOutsideDebugState : Obligations.EretCompletesOutsideDebugState := by
  unfold Obligations.EretCompletesOutsideDebugState
  intro s hinv hrun
  obtain ⟨t, ht⟩ := (exec_eret_answers_iff hinv).mp hrun
  refine ⟨t, ht, ?_⟩
  cases hi : illegalNow s with
  | false =>
    rw [exec_eret_of_legal hrun hi] at ht
    obtain ⟨same, hedeccr, hread⟩ := exec_opExcReturn_frame ht
    refine ⟨fun h => absurd h Bool.false_ne_true, fun _ => ⟨same.currentSs, fun r hr => ?_, fun h0 => ?_⟩,
      same.params, hedeccr, same.el1, same.el2, same.el3, same.env, same.inbox, hread⟩
    · rw [same.pc, same.pstate, legalReturn_pc, legalReturn_pstate, returnState_of_elRegs hr]
      exact ⟨rfl, rfl⟩
    · rw [same.pc, same.pstate, legalReturn_pc, legalReturn_pstate, returnState_of_el0 h0]
      exact ⟨rfl, rfl⟩
  | true =>
    rw [exec_eret_of_illegal hrun hi] at ht
    obtain ⟨same, hedeccr, hread⟩ := exec_opExcReturn_frame ht
    exact ⟨fun _ => ⟨same.pc, same.pstate, same.currentSs⟩, fun h => absurd h.symm Bool.false_ne_true,
      same.params, hedeccr, same.el1, same.el2, same.el3, same.env, same.inbox, hread⟩

end Sys2Proof.Machine
end

section
/-! PROOFS. The statements of 40_control.md: the control tables (R51 to R53), resets (R55), the pairs without bits
(R54, R58) and the hooks' refusal of them (R58). -/

namespace Sys2Proof.Machine

/-! ### The control tables, row by row (R51 to R53, R55) -/

/-- The *return* column: the rows `01` and `10`. -/
theorem twoBitHit_ret (r e : Bool) : twoBitHit r e .ret = ((!r && e) || (r && !e)) := by
  cases r <;> cases e <;> rfl

/-- The *entry* column: the rows `01` and `11`. -/
theorem twoBitHit_entry (r e : Bool) : twoBitHit r e .entry = ((!r && e) || (r && e)) := by
  cases r <;> cases e <;> rfl

theorem twoBitHit_reset (r e : Bool) : twoBitHit r e .reset = twoBitHit r e .entry := by
  cases r <;> cases e <;> rfl

theorem catchHit_oneBit {p : Params} {k : EntryKind} (hcfg : p.cfg = .v8p0) (hk : k ≠ .reset) (v : Word)
    (lv : Level) : catchHit p v lv k = eBit v lv := by
  simp [catchHit, hcfg, hk, Configuration.haveDebugv8p2, Configuration.haveRme]

theorem catchHit_twoBit {p : Params} {k : EntryKind} (h2 : p.cfg.haveDebugv8p2 = true) (hk : k ≠ .reset) (v : Word)
    (lv : Level) : catchHit p v lv k = twoBitHit (rBit v lv) (eBit v lv) k := by
  simp [catchHit, h2, hk]

/-- A reset is judged as an exception taken, in every configuration, where resets are Exception Catch events. -/
theorem catchHit_reset (p : Params) (v : Word) (lv : Level) :
    catchHit p v lv .reset = (catchHit p v lv .entry && p.resetIsExceptionCatch) := by
  cases hreset : p.resetIsExceptionCatch <;> simp [catchHit, hreset, twoBitHit_reset]

/-! ### `CatchEnabled` (R51 to R55) -/

theorem catchEnabled_of_hasCatchBits {p : Params} {lv : Level} (h : hasCatchBits p.cfg lv = true) (v : Word)
    (k : EntryKind) : catchEnabled p v lv k = some (catchHit p v lv k) :=
  if_pos h

theorem catchEnabled_eq_none_iff (p : Params) (v : Word) (lv : Level) (k : EntryKind) :
    catchEnabled p v lv k = none ↔ hasCatchBits p.cfg lv = false := by
  simp [catchEnabled]

/-- Settles O8: the one-bit table for an entry and a return, and a reset as an entry. -/
theorem oneBitControl : Obligations.OneBitControl := by
  unfold Obligations.OneBitControl
  intro p v lv hcfg hbits
  have hit {k : EntryKind} (hk : k ≠ .reset) : catchHit p v lv k = eBit v lv := catchHit_oneBit hcfg hk v lv
  simp only [catchEnabled_of_hasCatchBits hbits]
  refine ⟨?_, ?_, ?_⟩
  · rw [hit (by decide)]
  · rw [hit (by decide)]
  · rw [catchHit_reset, hit (by decide)]

/-- Settles O9: the two-bit table's columns for a return and an entry, and a reset as an entry. -/
theorem twoBitControl : Obligations.TwoBitControl := by
  unfold Obligations.TwoBitControl
  intro p v lv h2 hbits
  have hit {k : EntryKind} (hk : k ≠ .reset) : catchHit p v lv k = twoBitHit (rBit v lv) (eBit v lv) k :=
    catchHit_twoBit h2 hk v lv
  simp only [catchEnabled_of_hasCatchBits hbits]
  refine ⟨?_, ?_, ?_⟩
  · rw [hit (by decide), twoBitHit_ret]
  · rw [hit (by decide), twoBitHit_entry]
  · rw [catchHit_reset, hit (by decide), twoBitHit_entry]

/-- Settles O10: a reset hits only as an entry does, which the row `10` does not. -/
theorem resetIsEnabledAsAnExceptionTaken : Obligations.ResetIsEnabledAsAnExceptionTaken := by
  unfold Obligations.ResetIsEnabledAsAnExceptionTaken
  intro p v lv
  refine ⟨fun hreset => ?_, fun hreset => ?_, fun h2 hr he => ?_⟩
  · simp only [catchEnabled, catchHit_reset, hreset, Bool.and_true]
  · simp [catchEnabled_eq_some_true_iff, catchHit_reset, hreset]
  · have miss : catchHit p v lv .entry = false := by
      rw [catchHit_twoBit h2 (by decide), hr, he]
      rfl
    simp [catchEnabled_eq_some_true_iff, catchHit_reset, miss]

/-! ### The pairs without bits (R54, R58) -/

theorem hasCatchBits_eq_false_iff (c : Configuration) (lv : Level) :
    hasCatchBits c lv = false ↔
      (lv.el = 3 ∧ (lv.ss = .nonSecure ∨ lv.ss = .realm)) ∨
        ((lv.ss = .realm ∨ lv.ss = .root) ∧ c.haveRme = false) := by
  obtain ⟨ss, el⟩ := lv
  cases ss with
  | secure => simp [hasCatchBits]
  | nonSecure => simp [hasCatchBits]
  | realm => by_cases hel : el = 3 <;> simp [hasCatchBits, hel]
  | root => simp [hasCatchBits]

/-- Settles O11: `CatchEnabled` refuses where there are no bits, and which pairs have none is read off by Security
state. -/
theorem catchEnabledRefusesPairsWithoutBits : Obligations.CatchEnabledRefusesPairsWithoutBits := by
  unfold Obligations.CatchEnabledRefusesPairsWithoutBits
  intro p v lv k
  rw [catchEnabled_eq_none_iff, hasCatchBits_eq_false_iff]

/-! ### The hooks' refusal (R58) -/

/-- Why a hook is refused: with halting allowed it asks about a pair without bits. -/
def RefusedForBits (s : State) (r : Refusal) : Prop :=
  r = .noCatchBits s.level ∧ haltingAllowed s = true ∧ hasCatchBits s.params.cfg s.level = false

theorem commonCheck_eq_error_iff (k : EntryKind) (s : State) (r : Refusal) :
    commonCheck k s = .error r ↔ RefusedForBits s r := by
  unfold RefusedForBits
  by_cases ha : haltingAllowed s = true
  · cases hb : hasCatchBits s.params.cfg s.level <;> simp [commonCheck, catchEnabled, ha, hb, eq_comm (a := r)]
  · simp [commonCheck, ha]

theorem entryHook_eq_error_iff (k : EntryKind) (s : State) (r : Refusal) :
    entryHook k s = .error r ↔ RefusedForBits s r := by
  rw [← commonCheck_eq_error_iff k]
  unfold entryHook
  split <;> simp [*]

theorem returnHook_eq_error_iff (s : State) (r : Refusal) : returnHook s = .error r ↔ RefusedForBits s r := by
  rw [← commonCheck_eq_error_iff .ret]
  unfold returnHook
  split <;> simp [*]

theorem unpredictableAlternatives_eq_error_iff (s : State) (r : Refusal) :
    unpredictableAlternatives s = .error r ↔ RefusedForBits s r := by
  unfold unpredictableAlternatives RefusedForBits
  by_cases ha : haltingAllowed s = true
  · cases hb : hasCatchBits s.params.cfg s.level <;> simp [ha, eq_comm (a := r)]
  · simp [ha]

/-- A boundary reads the pair's bit in `CFG_V8P0` only (R68, R70, R80). -/
theorem boundaryHook_eq_error_iff (s : State) (r : Refusal) :
    boundaryHook s = .error r ↔ s.params.cfg = .v8p0 ∧ RefusedForBits s r := by
  rw [← unpredictableAlternatives_eq_error_iff]
  cases hcfg : s.params.cfg <;> simp [boundaryHook, hcfg, Configuration.haveDebugv8p8, Configuration.haveDebugv8p2]

/-- Settles O21: a hook stops where its outcome set is refused, and that is at a pair without bits. -/
theorem hooksRefuseExactlyPairsWithoutBits : Obligations.HooksRefuseExactlyPairsWithoutBits := by
  unfold Obligations.HooksRefuseExactlyPairsWithoutBits
  intro s r
  refine ⟨?_, ?_, ?_, fun illegal => ?_⟩
  · exact (settleOr_refused s r _).trans (entryHook_eq_error_iff .entry s r)
  · exact (settleOr_refused s r _).trans (entryHook_eq_error_iff .reset s r)
  · rw [and_left_comm]
    exact (settleOr_refused s r _).trans (boundaryHook_eq_error_iff s r)
  · exact (settleOr_refused s r _).trans (returnHook_eq_error_iff s r)

end Sys2Proof.Machine
end

section
/-! PROOFS. The statements of 41_generation.md: the outcomes of an event generated on an exception entry or a reset
(R61, R62, R71, R73, R76) and on an exception return (R63 to R67, R74), where none is generated (R60, R75), and the
boundaries without `FEAT_Debugv8p8` (R68, R70). -/

namespace Sys2Proof.Machine

/-! ### The configurations by feature (R4) -/

theorem features_v8p2 {c : Configuration} (h : c = .v8p2 ∨ c = .v8p2Rme) :
    c.haveDebugv8p2 = true ∧ c.haveDebugv8p8 = false := by
  rcases h with rfl | rfl <;> exact ⟨rfl, rfl⟩

theorem haveDebugv8p8_of_v8p8 {c : Configuration} (h : c = .v8p8 ∨ c = .v8p8Rme) : c.haveDebugv8p8 = true := by
  rcases h with rfl | rfl <;> rfl

theorem features_v8p0 {c : Configuration} (h : c = .v8p0) : c.haveDebugv8p2 = false ∧ c.haveDebugv8p8 = false := by
  subst h
  exact ⟨rfl, rfl⟩

/-! ### The outcome sets, member by member (60_exceptions.md R107; R61, R62, R66, R67, R71, R73, R74) -/

theorem settleOr_ok (s : State) (a : Alternatives) :
    settleOr s (.ok a) = .next (pick a.first a.rest (Config.freeChoice s.draws)).conclude := rfl

/-- With one member there is no choice. -/
theorem settleOr_only (s : State) (o : OpOutcome) : settleOr s (.ok (only o)) = .next o.conclude := rfl

theorem haltAlternatives_keep (b : Bool) (s : State) : haltAlternatives .keep b s = only (.halted (caught b s)) := by
  simp [haltAlternatives]

/-- There is no bit to draw. -/
theorem haltAlternatives_of_no_ec {s : State} (h8 : s.params.cfg.haveDebugv8p8 = false) (ec : EcOnHalt) (b : Bool) :
    haltAlternatives ec b s = only (.halted (caught b s)) := by
  simp [haltAlternatives, h8]

theorem haltAlternatives_draw {s : State} (h8 : s.params.cfg.haveDebugv8p8 = true) (b : Bool) :
    haltAlternatives .draw b s =
      ⟨.halted (withEc 0#1 (caught b s)), [.halted (withEc 1#1 (caught b s))]⟩ := by
  simp [haltAlternatives, h8]

theorem entryAlternatives_v8p0 {s : State} (hcfg : s.params.cfg = .v8p0) (b : Bool) :
    entryAlternatives b s = ⟨.halted (caught b s), if asyncDue s then [.yield s] else []⟩ := by
  obtain ⟨h2, h8⟩ := features_v8p0 hcfg
  simp only [entryAlternatives, h2, h8, haltAlternatives_of_no_ec h8, addIf_only, Bool.false_eq_true, if_false]

theorem entryAlternatives_v8p2 {s : State} (hcfg : s.params.cfg = .v8p2 ∨ s.params.cfg = .v8p2Rme) (b : Bool) :
    entryAlternatives b s = only (.halted (caught b s)) := by
  obtain ⟨h2, h8⟩ := features_v8p2 hcfg
  simp only [entryAlternatives, h2, h8, haltAlternatives_of_no_ec h8, Bool.false_eq_true, if_false, if_true]

theorem entryAlternatives_v8p8 {s : State} (h8 : s.params.cfg.haveDebugv8p8 = true) (b : Bool) :
    entryAlternatives b s =
      ⟨.halted (withEc 0#1 (caught b s)),
        .halted (withEc 1#1 (caught b s)) :: if asyncDue s then [.yield (withEc 1#1 s)] else []⟩ := by
  have drawn := haltAlternatives_draw (s := withEc 1#1 s) h8 b
  simp only [caught_withEc, withEc_withEc] at drawn
  simp only [entryAlternatives, h8, drawn, addIf_pair, asyncDue_withEc, if_true]

/-- Where the switch of 90_conflicts.md C4 has no effect, everything asynchronous may come before a return's event. -/
theorem returnMayYield_eq_asyncDue {s : State}
    (h : s.params.returnEcBeforeAsyncV8p2 = false ∨ s.params.cfg.haveDebugv8p2 = false ∨
      s.params.cfg.haveDebugv8p8 = true) : returnMayYield s = asyncDue s := by
  rcases h with h | h | h <;> simp [returnMayYield, returnMayYieldToException, asyncDue, h]

/-- With no event held `EDESR.EC` is kept at a return's halt. -/
theorem returnAlternatives_of_not_ecHeld {s : State} (h : ecHeld s = false) :
    returnAlternatives s = ⟨.halted (caught false s), if returnMayYield s then [.yield s] else []⟩ := by
  simp only [returnAlternatives, h, haltAlternatives_keep, addIf_only, Bool.false_eq_true, if_false]

theorem returnAlternatives_of_ecHeld {s : State} (h : ecHeld s = true) :
    returnAlternatives s =
      ⟨.halted (withEc 0#1 (caught false s)),
        .halted (withEc 1#1 (caught false s)) :: if returnMayYield s then [.yield s] else []⟩ := by
  have h8 : s.params.cfg.haveDebugv8p8 = true := by
    simp only [ecHeld, Bool.and_eq_true] at h
    exact h.1
  simp only [returnAlternatives, h, haltAlternatives_draw h8, addIf_pair, if_true]

theorem ecHeld_eq_false {s : State} (h : s.params.cfg.haveDebugv8p8 = false ∨ s.edesrEc = 0#1) :
    ecHeld s = false := by
  rcases h with h | h <;> simp [ecHeld, h]

/-! ### A generated event (R60) -/

theorem exec_opExcReturn_eq (illegal : Bool) (s : State) :
    exec (.opExcReturn illegal) s = settleOr s (returnHook s) := rfl

theorem exec_opInsnBoundary_eq (s : State) : exec .opInsnBoundary s = settleOr s (boundaryHook s) := rfl

theorem entryHook_of_generated {k : EntryKind} {s : State} (h : s.Generated k) :
    entryHook k s = .ok (entryAlternatives (k == .entry) s) := by
  simp only [entryHook, commonCheck_of_generated h]

theorem returnHook_of_generated {s : State} (h : s.Generated .ret) : returnHook s = .ok (returnAlternatives s) := by
  simp only [returnHook, commonCheck_of_generated h]

section
variable {k : EntryKind} {s : State}

/-- R61, R62, for an exception taken and for a reset. -/
theorem settleOr_entryHook_v8p0 (hcfg : s.params.cfg = .v8p0) (hg : s.Generated k) :
    settleOr s (entryHook k s) = .next (pick (.halted (caught (k == .entry) s))
      (if asyncDue s then [.yield s] else []) (Config.freeChoice s.draws)).conclude := by
  rw [entryHook_of_generated hg, entryAlternatives_v8p0 hcfg, settleOr_ok]

/-- R71, for an exception taken and for a reset. -/
theorem settleOr_entryHook_v8p2 (hcfg : s.params.cfg = .v8p2 ∨ s.params.cfg = .v8p2Rme) (hg : s.Generated k) :
    settleOr s (entryHook k s) = .next (OpOutcome.halted (caught (k == .entry) s)).conclude := by
  rw [entryHook_of_generated hg, entryAlternatives_v8p2 hcfg, settleOr_only]

/-- R73, for an exception taken and for a reset. -/
theorem settleOr_entryHook_v8p8 (hcfg : s.params.cfg = .v8p8 ∨ s.params.cfg = .v8p8Rme) (hg : s.Generated k) :
    settleOr s (entryHook k s) = .next (pick (.halted (withEc 0#1 (caught (k == .entry) s)))
      (.halted (withEc 1#1 (caught (k == .entry) s)) :: if asyncDue s then [.yield (withEc 1#1 s)] else [])
      (Config.freeChoice s.draws)).conclude := by
  rw [entryHook_of_generated hg, entryAlternatives_v8p8 (haveDebugv8p8_of_v8p8 hcfg), settleOr_ok]

end

/-- Settles O13: the entry hook is settled from the outcome set of `CFG_V8P0`. -/
theorem entryHaltsOrYieldsWithoutDebugv8p2 : Obligations.EntryHaltsOrYieldsWithoutDebugv8p2 := by
  unfold Obligations.EntryHaltsOrYieldsWithoutDebugv8p2
  exact fun _ => settleOr_entryHook_v8p0

/-- Settles O14: the outcome set of `CFG_V8P2*` has one member. -/
theorem entryHaltsAtOnceWithDebugv8p2 : Obligations.EntryHaltsAtOnceWithDebugv8p2 := by
  unfold Obligations.EntryHaltsAtOnceWithDebugv8p2
  exact fun _ => settleOr_entryHook_v8p2

/-- Settles O15: the entry hook is settled from the outcome set of `CFG_V8P8*`. -/
theorem entrySetsPendingBitWithDebugv8p8 : Obligations.EntrySetsPendingBitWithDebugv8p8 := by
  unfold Obligations.EntrySetsPendingBitWithDebugv8p8
  exact fun _ => settleOr_entryHook_v8p8

/-! ### No event generated (R60, R75) -/

theorem commonCheck_of_not_generated {k : EntryKind} {s : State}
    (h : catchEnabled s.params s.edeccr s.level k = some false ∨ haltingAllowed s = false) :
    commonCheck k s = .ok false := by
  unfold commonCheck
  rcases h with h | h
  · split
    · rw [h]
    · rfl
  · rw [h]
    rfl

/-- The event is not one that may be pended while halting is prohibited (R75). -/
theorem mayPendProhibited_eq_false {k : EntryKind} {s : State}
    (h : s.params.ecWhenProhibited = .ignore ∨ s.params.cfg.haveDebugv8p8 = false ∨ k = .ret ∨
      catchEnabled s.params s.edeccr s.level k ≠ some true) : mayPendProhibited k s = false := by
  rcases h with h | h | h | h <;> simp [mayPendProhibited, h]

theorem notGenerated_of_not_pended {k : EntryKind} {s : State} (h : mayPendProhibited k s = false) :
    notGenerated k s = only (.cont s) := by
  rw [notGenerated, addIf_only, h]
  rfl

/-- A return's event is never pended. -/
theorem notGenerated_ret (s : State) : notGenerated .ret s = only (.cont s) :=
  notGenerated_of_not_pended (mayPendProhibited_eq_false (.inr (.inr (.inl rfl))))

theorem entryHook_of_not_generated {k : EntryKind} {s : State} (h : commonCheck k s = .ok false) :
    entryHook k s = .ok (notGenerated k s) := by
  simp only [entryHook, h]

/-- An event that is neither generated nor pended, at an exception taken or at a reset, changes nothing. -/
theorem settleOr_entryHook_of_ignored {k : EntryKind} {s : State} (hcheck : commonCheck k s = .ok false)
    (hpend : mayPendProhibited k s = false) : settleOr s (entryHook k s) = .next (OpOutcome.cont s).conclude := by
  rw [entryHook_of_not_generated hcheck, notGenerated_of_not_pended hpend, settleOr_only]

/-- An event that is pended (R75, 60_exceptions.md R103). -/
theorem settleOr_entryHook_of_pended {k : EntryKind} {s : State} (hcheck : commonCheck k s = .ok false)
    (hpend : mayPendProhibited k s = true) :
    settleOr s (entryHook k s) =
      .next (pick (.cont s) [.cont (withEc 1#1 s)] (Config.freeChoice s.draws)).conclude := by
  rw [entryHook_of_not_generated hcheck, notGenerated, addIf_only, hpend, settleOr_ok, if_pos rfl]

theorem returnHook_of_not_generated {s : State} (h : commonCheck .ret s = .ok false) :
    returnHook s = .ok (only (.cont s)) := by
  simp only [returnHook, h, notGenerated_ret]

theorem exec_opExcReturn_of_not_generated {s : State} (h : commonCheck .ret s = .ok false) (illegal : Bool) :
    exec (.opExcReturn illegal) s = .next (OpOutcome.cont s).conclude := by
  rw [exec_opExcReturn_eq, returnHook_of_not_generated h, settleOr_only]

/-- Settles O19: such an event is neither generated nor pended, so that one outcome is left. -/
theorem hooksContinueWhereNothingIsGenerated : Obligations.HooksContinueWhereNothingIsGenerated := by
  unfold Obligations.HooksContinueWhereNothingIsGenerated
  intro k s h
  have check : commonCheck k s = .ok false := commonCheck_of_not_generated (h.imp_right And.left)
  have unpended : mayPendProhibited k s = false := by
    rcases h with hoff | ⟨-, hignored⟩
    · exact mayPendProhibited_eq_false (.inr (.inr (.inr (by simp [hoff]))))
    · exact mayPendProhibited_eq_false hignored
  refine ⟨?_, ?_, ?_⟩
  · rintro rfl
    exact settleOr_entryHook_of_ignored check unpended
  · rintro rfl
    exact settleOr_entryHook_of_ignored check unpended
  · rintro rfl
    exact exec_opExcReturn_of_not_generated check

/-- Where resets are no Exception Catch events, a pair that has bits enables none (R55). -/
theorem catchEnabled_reset_eq_false {p : Params} {lv : Level} (hreset : p.resetIsExceptionCatch = false)
    (hbits : hasCatchBits p.cfg lv = true) (v : Word) : catchEnabled p v lv .reset = some false := by
  rw [catchEnabled_of_hasCatchBits hbits, catchHit_reset, hreset, Bool.and_false]

/-- Settles O16: the reset hook is the entry hook asked about a reset. -/
theorem resetIsCaughtAsAnExceptionTaken : Obligations.ResetIsCaughtAsAnExceptionTaken := by
  unfold Obligations.ResetIsCaughtAsAnExceptionTaken
  refine ⟨fun _ => settleOr_entryHook_v8p0, fun _ => settleOr_entryHook_v8p2, fun _ => settleOr_entryHook_v8p8, ?_⟩
  intro s hreset hbits
  have disabled := catchEnabled_reset_eq_false hreset hbits s.edeccr
  have unpended : mayPendProhibited .reset s = false := by simp [mayPendProhibited, disabled]
  exact settleOr_entryHook_of_ignored (commonCheck_of_not_generated (.inl disabled)) unpended

/-- Settles O20: an entry or a reset may be pended, a return may not. -/
theorem prohibitedEntryMayBePended : Obligations.ProhibitedEntryMayBePended := by
  unfold Obligations.ProhibitedEntryMayBePended
  intro s hparam h8 hprohibited hrun
  have check (k : EntryKind) : commonCheck k s = .ok false := commonCheck_of_not_generated (.inr hprohibited)
  have pended {k : EntryKind} (hk : k ≠ .ret) (henabled : catchEnabled s.params s.edeccr s.level k = some true) :
      mayPendProhibited k s = true := by
    simp [mayPendProhibited, hparam, h8, hk, hprohibited, hrun, henabled]
  exact ⟨fun henabled => settleOr_entryHook_of_pended (check _) (pended (by decide) henabled),
    fun henabled => settleOr_entryHook_of_pended (check _) (pended (by decide) henabled),
    exec_opExcReturn_of_not_generated (check _)⟩

/-! ### Exception returns (R63 to R67, R74) -/

/-- A generated event at a return is settled from the return's outcome set. -/
theorem exec_opExcReturn_of_generated {s : State} (h : s.Generated .ret) (illegal : Bool) :
    exec (.opExcReturn illegal) s =
      .next (pick (returnAlternatives s).first (returnAlternatives s).rest (Config.freeChoice s.draws)).conclude := by
  rw [exec_opExcReturn_eq, returnHook_of_generated h, settleOr_ok]

/-- Settles O17: whether an event is held decides between the two outcome sets. -/
theorem returnHaltsOrYields : Obligations.ReturnHaltsOrYields := by
  unfold Obligations.ReturnHaltsOrYields
  intro illegal s hswitch hg
  rw [exec_opExcReturn_of_generated hg]
  refine ⟨fun hfree => ?_, fun h8 hec => ?_⟩
  · rw [returnAlternatives_of_not_ecHeld (ecHeld_eq_false hfree), returnMayYield_eq_asyncDue hswitch]
  · rw [returnAlternatives_of_ecHeld (by simp [ecHeld, h8, hec]), returnMayYield_eq_asyncDue hswitch]
    rfl

/-- In `CFG_V8P0` the one bit of a level traps an exception taken and a return alike (R51). -/
theorem catchEnabled_ret_eq_entry {p : Params} (hcfg : p.cfg = .v8p0) (v : Word) (lv : Level) :
    catchEnabled p v lv .ret = catchEnabled p v lv .entry := by
  rw [catchEnabled, catchEnabled, catchHit_oneBit hcfg (by decide), catchHit_oneBit hcfg (by decide)]

/-- Settles O23: what traps the exception taken traps the return, and in `CFG_V8P0` there is no bit to be held. -/
theorem returnToTrappedLevelGeneratesAgain : Obligations.ReturnToTrappedLevelGeneratesAgain := by
  unfold Obligations.ReturnToTrappedLevelGeneratesAgain
  rintro s u hcfg ⟨-, henabled⟩ hparams hedeccr hlevel hallowed
  rw [← hparams] at hcfg
  have generated : u.Generated .ret :=
    ⟨hallowed, by rw [catchEnabled_ret_eq_entry hcfg, hparams, hedeccr, hlevel, henabled]⟩
  obtain ⟨h2, h8⟩ := features_v8p0 hcfg
  rw [exec_opExcReturn_of_generated generated, returnAlternatives_of_not_ecHeld (ecHeld_eq_false (.inl h8)),
    returnMayYield_eq_asyncDue (.inr (.inl h2))]

/-- The hook of a return halts a running PE only where the event is generated. -/
theorem generated_of_exec_opExcReturn {f : Bool} {s t : State} (h : exec (.opExcReturn f) s = .next t)
    (hrun : s.halted = false) (hhalt : t.halted = true) : s.Generated .ret := by
  rcases commonCheck_cases .ret s with ⟨-, hg⟩ | ⟨hc, -⟩ | ⟨hc, -, -⟩
  · exact hg
  · rw [exec_opExcReturn_of_not_generated hc] at h
    obtain rfl := Host.Outcome.next.inj h
    simp [hrun] at hhalt
  · simp [exec_opExcReturn_eq, returnHook, hc, settleOr] at h

theorem runEnvMove_exceptionReturn_of_illegal {s : State} (hrun : s.halted = false) (hillegal : illegalNow s = true) :
    runEnvMove .exceptionReturn s = .next (illegalReturn s) := by
  simp [runEnvMove, envMove, exceptionReturn, hrun, hillegal, Except.map]

/-- R65: the hook after an illegal return leaves the level, and judges the return there. -/
theorem exec_opExcReturn_illegalReturn {f : Bool} {s t : State} (hrun : s.halted = false)
    (h : exec (.opExcReturn f) (illegalReturn s) = .next t) :
    t.level = s.level ∧ (t.halted = true → catchEnabled s.params s.edeccr s.level .ret = some true) := by
  obtain ⟨same, -, -⟩ := exec_opExcReturn_frame h
  refine ⟨?_, fun hhalt => (generated_of_exec_opExcReturn h hrun hhalt).2⟩
  rw [State.level, same.currentSs, same.pstate]
  rfl

/-- Settles O22: `ERET` and the environment's own return leave the same state to the hook. -/
theorem illegalReturnIsJudgedAtTheCurrentLevel : Obligations.IllegalReturnIsJudgedAtTheCurrentLevel := by
  unfold Obligations.IllegalReturnIsJudgedAtTheCurrentLevel
  intro s hrun hillegal
  rw [exec_eret_of_illegal hrun hillegal]
  exact ⟨fun t => exec_opExcReturn_illegalReturn hrun, illegalReturn s,
    runEnvMove_exceptionReturn_of_illegal hrun hillegal, rfl, rfl, rfl, rfl,
    fun t => exec_opExcReturn_illegalReturn hrun⟩

/-! ### Boundaries without `FEAT_Debugv8p8` (R68, R70) -/

theorem boundaryHook_v8p0 {s : State} (hcfg : s.params.cfg = .v8p0) : boundaryHook s = unpredictableAlternatives s := by
  obtain ⟨h2, h8⟩ := features_v8p0 hcfg
  simp only [boundaryHook, h2, h8, Bool.false_eq_true, if_false]

theorem unpredictableAlternatives_trapped {s : State} (hallowed : haltingAllowed s = true)
    (hbits : hasCatchBits s.params.cfg s.level = true) (htrap : eBit s.edeccr s.level = true) :
    unpredictableAlternatives s = .ok ⟨.cont s, [.halted (caught false s)]⟩ := by
  simp only [unpredictableAlternatives, hallowed, hbits, htrap, if_true]

theorem unpredictableAlternatives_untrapped {s : State} (hbits : hasCatchBits s.params.cfg s.level = true)
    (htrap : eBit s.edeccr s.level = false) : unpredictableAlternatives s = .ok (only (.cont s)) := by
  simp only [unpredictableAlternatives, hbits, htrap, Bool.false_eq_true, if_true, if_false, ite_self]

theorem unpredictableAlternatives_prohibited {s : State} (hprohibited : haltingAllowed s = false) :
    unpredictableAlternatives s = .ok (only (.cont s)) := by
  simp only [unpredictableAlternatives, hprohibited, Bool.false_eq_true, if_false]

/-- Settles O24: at a trapped level there are two outcomes, at any other and with halting prohibited one. -/
theorem boundaryIsUnpredictableWithoutDebugv8p2 : Obligations.BoundaryIsUnpredictableWithoutDebugv8p2 := by
  unfold Obligations.BoundaryIsUnpredictableWithoutDebugv8p2
  intro s hcfg
  rw [exec_opInsnBoundary_eq, boundaryHook_v8p0 hcfg]
  refine ⟨fun hallowed hbits htrap => ?_, fun hbits htrap => ?_, fun hprohibited => ?_⟩
  · rw [unpredictableAlternatives_trapped hallowed hbits htrap, settleOr_ok]
  · rw [unpredictableAlternatives_untrapped hbits htrap, settleOr_only]
  · rw [unpredictableAlternatives_prohibited hprohibited, settleOr_only]

theorem exec_opInsnBoundary_v8p2 {s : State} (hcfg : s.params.cfg = .v8p2 ∨ s.params.cfg = .v8p2Rme) :
    exec .opInsnBoundary s = .next (OpOutcome.cont s).conclude := by
  obtain ⟨h2, h8⟩ := features_v8p2 hcfg
  have hook : boundaryHook s = .ok (only (.cont s)) := by
    simp only [boundaryHook, h2, h8, Bool.false_eq_true, if_false, if_true]
  rw [exec_opInsnBoundary_eq, hook, settleOr_only]

@[simp] theorem writeOneToClear_halted (v : Word) (s : State) : (writeOneToClear v s).halted = s.halted := by
  rw [State.halted, writeOneToClear_debugState, State.halted]

/-- Of all instructions only the four hooks and `ERET` can halt a running PE. -/
theorem hook_or_eret_of_exec_halts {i : Instr} {s t : State} (h : exec i s = .next t) (hrun : s.halted = false)
    (hhalt : t.halted = true) :
    i = .opExcEntry ∨ i = .opReset ∨ (∃ f, i = .opExcReturn f) ∨ i = .eret ∨ i = .opInsnBoundary := by
  have plain := exec_plain_next i s t h
  cases i with
  | opExcEntry => exact .inl rfl
  | opReset => exact .inr (.inl rfl)
  | opExcReturn f => exact .inr (.inr (.inl ⟨f, rfl⟩))
  | eret => exact .inr (.inr (.inr (.inl rfl)))
  | opInsnBoundary => exact .inr (.inr (.inr (.inr rfl)))
  | opReadEdesr =>
    obtain ⟨w, rfl⟩ := plain
    simp [hrun] at hhalt
  | opExitDebug => simp [hrun] at plain
  | isb =>
    obtain ⟨-, rfl⟩ := plain
    exact absurd (hrun.symm.trans hhalt) Bool.false_ne_true
  | _ => simp [plain, hrun] at hhalt

/-- A write of `EDECCR` or `OSECCR` is the write of their one storage (10_state.md R16). -/
theorem exec_edeccr_write {v : Word} {i : Instr} (hi : i = .opWriteEdeccr v ∨ i = .opWriteOseccr v) (s : State) :
    exec i s = .next (OpOutcome.cont (withEdeccr v s)).conclude := by
  rcases hi with rfl | rfl <;> rfl

/-- Settles O25: no boundary generates anything, and neither a write nor a change of level halts the PE. -/
theorem nothingIsGeneratedBetweenEntriesWithDebugv8p2 :
    Obligations.NothingIsGeneratedBetweenEntriesWithDebugv8p2 := by
  unfold Obligations.NothingIsGeneratedBetweenEntriesWithDebugv8p2
  intro s hcfg
  have boundary_after {i : Instr} {t : State} (h : exec i s = .next t) :
      exec .opInsnBoundary t = .next (OpOutcome.cont t).conclude :=
    exec_opInsnBoundary_v8p2 (by rwa [exec_params h])
  refine ⟨exec_opInsnBoundary_v8p2 hcfg, fun i t h hrun hhalt => ?_, fun v i t hi h => ?_, fun t h => ?_⟩
  · rcases hook_or_eret_of_exec_halts h hrun hhalt with hi | hi | hi | hi | rfl
    · exact .inl hi
    · exact .inr (.inl hi)
    · exact .inr (.inr (.inl hi))
    · exact .inr (.inr (.inr hi))
    · rw [exec_opInsnBoundary_v8p2 hcfg] at h
      obtain rfl := Host.Outcome.next.inj h
      simp [hrun] at hhalt
  · have written := h
    rw [exec_edeccr_write hi] at written
    obtain rfl := Host.Outcome.next.inj written
    exact ⟨rfl, rfl, boundary_after h⟩
  · have unchanged := exec_plain_next .opA32StateChange s t h
    exact ⟨by rw [unchanged]; rfl, boundary_after h⟩

end Sys2Proof.Machine
end

section
/-! PROOFS. The statements of 42_pending.md: what sets, keeps and clears `EDESR.EC` (R81 to R84, R86), the boundary at
which a held event is taken (R80), and the place of a held event before synchronous ones (R85). -/

namespace Sys2Proof.Machine

/-! ### What an instruction does to `EDESR.EC` (R81 to R84, R86) -/

/-- Everything an instruction that leads from `s` to `t` can do to `EDESR.EC`. -/
inductive EcEffect (i : Instr) (s t : State) : Prop
  | kept : t.edesrEc = s.edesrEc → EcEffect i s t
  /-- an exception taken or a reset sets the bit (R86) -/
  | raised : s.params.cfg.haveDebugv8p8 = true → i = .opExcEntry ∨ i = .opReset → t.edesrEc = 1#1 → EcEffect i s t
  /-- the bit is drawn as the PE halts, where it was set before or is set now (R84) -/
  | drawn : s.params.cfg.haveDebugv8p8 = true → (i = .opExcEntry ∨ i = .opReset) ∨ s.edesrEc = 1#1 →
      s.halted = false → t.halted = true → EcEffect i s t
  /-- a 1 is written to the bit (R82) -/
  | written (v : Word) : i = .opWriteEdesr v → ecOfWord s.params v = true → t.edesrEc = 0#1 → EcEffect i s t
  /-- the PE leaves Debug state (R83) -/
  | exited : i = .opExitDebug → s.halted = true → t.edesrEc = 0#1 → EcEffect i s t

theorem HookOutcome.ecEffect {sets : Bool} {i : Instr} {s : State} {o : OpOutcome} (ho : HookOutcome sets s o)
    (hi : sets = true → i = .opExcEntry ∨ i = .opReset) : EcEffect i s o.conclude := by
  cases ho with
  | cont => exact .kept rfl
  | pended hsets h8 _ => exact .raised h8 (hi hsets) rfl
  | halted _ _ => exact .kept rfl
  | drawn _ _ ha h8 hset => exact .drawn h8 (hset.imp_left hi) (not_halted_of_haltingAllowed s ha) rfl
  | yield _ => exact .kept rfl
  | yieldHeld _ hsets h8 => exact .raised h8 (hi hsets) rfl

/-- The effect is judged by the parameters, the bit and `Halted` alone. -/
theorem EcEffect.congr {i : Instr} {s u t : State} (h : EcEffect i u t) (hparams : u.params = s.params)
    (hec : u.edesrEc = s.edesrEc) (hdebug : u.debugState = s.debugState) : EcEffect i s t := by
  have hhalted : u.halted = s.halted := congrArg Option.isSome hdebug
  cases h with
  | kept h => exact .kept (h.trans hec)
  | raised h8 hi h => exact .raised (hparams ▸ h8) hi h
  | drawn h8 hset hrun h => exact .drawn (hparams ▸ h8) (hec ▸ hset) (hhalted ▸ hrun) h
  | written v hi hv h => exact .written v hi (hparams ▸ hv) h
  | exited hi hh h => exact .exited hi (hhalted ▸ hh) h

theorem writeOneToClear_ecEffect (v : Word) (s : State) :
    EcEffect (.opWriteEdesr v) s (OpOutcome.cont (writeOneToClear v s)).conclude := by
  by_cases hclear : (s.params.cfg.haveDebugv8p8 && ecOfWord s.params v) = true
  · exact .written v rfl (Bool.and_eq_true_iff.mp hclear).2 (by simp [hclear])
  · exact .kept (by simp [hclear])

theorem leaveDebugState_ecEffect {s : State} (h : s.halted = true) :
    EcEffect .opExitDebug s (OpOutcome.cont (leaveDebugState s)).conclude := by
  by_cases h8 : s.params.cfg.haveDebugv8p8 = true
  · exact .exited rfl h (by simp [h8])
  · exact .kept (by simp [h8])

theorem exec_ecEffect {i : Instr} {s t : State} (h : exec i s = .next t) : EcEffect i s t := by
  rcases exec_next_cases i s t h with ⟨_, o, ho, rfl, ⟨hi, -⟩ | ⟨-, rfl⟩⟩ | rfl |
    ⟨heret, hentry, hreset, hboundary, hreturn⟩
  · exact ho.ecEffect fun _ => hi
  · exact ho.ecEffect (absurd · Bool.false_ne_true)
  · obtain ⟨r, o, hr, ho, rfl⟩ := exec_eret_next s t h
    obtain ⟨hparams, -, hec, hdebug, -⟩ := exceptionReturn_frame s r hr
    exact (ho.ecEffect (absurd · Bool.false_ne_true)).congr hparams hec hdebug
  · have plain := exec_plain_next i s t h
    cases i with
    | opExcEntry => exact absurd rfl hentry
    | opExcReturn f => exact absurd rfl (hreturn f)
    | opReset => exact absurd rfl hreset
    | opInsnBoundary => exact absurd rfl hboundary
    | eret => exact absurd rfl heret
    | opWriteEdesr v =>
      rw [plain]
      exact writeOneToClear_ecEffect v s
    | opReadEdesr =>
      obtain ⟨w, rfl⟩ := plain
      exact .kept rfl
    | opExitDebug =>
      obtain ⟨hh, rfl⟩ := plain
      exact leaveDebugState_ecEffect hh
    | isb =>
      obtain ⟨-, rfl⟩ := plain
      exact .kept rfl
    | _ => exact .kept (by simp [plain])

/-- Settles O44: the bit is set as an exception or a reset is processed, or drawn at the halt that follows. -/
theorem pendingBitIsSetOnlyByEntryOrReset : Obligations.PendingBitIsSetOnlyByEntryOrReset := by
  unfold Obligations.PendingBitIsSetOnlyByEntryOrReset
  intro i s t h hs ht
  cases exec_ecEffect h with
  | kept h => simp [h, hs] at ht
  | raised h8 hi _ => exact ⟨h8, hi⟩
  | drawn h8 hset _ _ => exact ⟨h8, hset.resolve_right (by simp [hs])⟩
  | written _ _ _ h => simp [h] at ht
  | exited _ _ h => simp [h] at ht

/-- Settles O45: the effects that can leave a 0 are the three listed. -/
theorem pendingBitIsClearedOnlyAsListed : Obligations.PendingBitIsClearedOnlyAsListed := by
  unfold Obligations.PendingBitIsClearedOnlyAsListed
  intro i s t h hs ht
  cases exec_ecEffect h with
  | kept h => simp [h, hs] at ht
  | raised _ _ h => simp [h] at ht
  | drawn _ _ hrun hhalt => exact .inr (.inr ⟨hrun, hhalt⟩)
  | written v hi hv _ => exact .inl ⟨v, hi, hv⟩
  | exited hi _ _ => exact .inr (.inl hi)

/-! ### A pending event over every step (R81, R86, 70_reset_and_hazards.md R127) -/

@[simp] theorem withElRegs_edesrEc (el : EL) (r : ElRegs) (s : State) : (withElRegs el r s).edesrEc = s.edesrEc := by
  unfold withElRegs
  split <;> rfl

/-- Of the environment's moves only a reset writes `EDESR.EC`. -/
theorem envMove_edesrEc {m : EnvMove} {s t : State} (h : envMove m s = .ok t) (hreset : ∀ r, m ≠ .reset r) :
    t.edesrEc = s.edesrEc := by
  have moved := envMove_ok m s t h
  cases m with
  | answers a => rw [show t = { s with env := a } from moved]
  | takeException e => obtain ⟨-, -, -, r, pc, rfl⟩ := moved; exact withElRegs_edesrEc _ _ _
  | exceptionReturn =>
    obtain ⟨r, hr, rfl⟩ := moved
    obtain ⟨-, -, hec, -⟩ := exceptionReturn_frame s r hr
    exact hec
  | reset r => exact absurd rfl (hreset r)
  | changeLevel lv pc rest => obtain ⟨-, -, rfl⟩ := moved; rfl
  | haltFor r => obtain ⟨-, -, rfl⟩ := moved; rfl
  | resume => obtain ⟨-, -, rfl⟩ := moved; rfl
  | execute pc rest => obtain ⟨-, rfl⟩ := moved; rfl
  | writeElRegs el r => obtain ⟨-, rfl⟩ := moved; exact withElRegs_edesrEc _ _ _

@[simp] theorem rivalHappens_edesrEc (r : Rival) (s : State) : (rivalHappens r s).edesrEc = s.edesrEc := by
  rcases rivalHappens_cases r s with h | ⟨_, h⟩ <;> rw [h]
  rfl

theorem ContendsAt.edesrEc {i : Instr} {a : Point} {s u : State} (h : ContendsAt i a s u) : u.edesrEc = s.edesrEc := by
  rcases h with ⟨-, rfl⟩ | ⟨-, -, f, hr⟩
  · rfl
  · obtain ⟨-, -, hec, -⟩ := exceptionReturn_frame s _ hr
    exact hec

/-- No instruction word writes `EDESR`: such a write is an operation, invoked alone or in a contention. -/
theorem Input.Runs.opWriteEdesr {x : Input} {v : Word} (h : x.Runs (.opWriteEdesr v)) :
    x = .op (.opWriteEdesr v) ∨ ∃ r, x = .contend r (.opWriteEdesr v) := by
  rcases h with h | h | ⟨w, -, hd⟩
  · exact .inl h
  · exact .inr h
  · cases encode_of_decode hd

/-- An instruction keeps the pending event of a PE that runs before and after it, unless it writes a 1 to the bit. -/
theorem exec_keeps_pending {i : Instr} {s t : State} (h : exec i s = .next t) (hec : s.edesrEc = 1#1)
    (hrun : s.halted = false) (hrun' : t.halted = false)
    (hwrite : ∀ v, i = .opWriteEdesr v → ecOfWord s.params v = false) : t.edesrEc = 1#1 := by
  cases exec_ecEffect h with
  | kept h => exact h.trans hec
  | raised _ _ h => exact h
  | drawn _ _ _ hhalt => simp [hrun'] at hhalt
  | written v hi hv _ => simp [hwrite v hi] at hv
  | exited _ hh _ => simp [hrun] at hh

/-- Settles O46: an instruction keeps the bit or is one of those listed; another event that comes first, and every move
of the environment but a reset, leave it alone. -/
theorem pendingEventSurvivesUntilTheHalt : Obligations.PendingEventSurvivesUntilTheHalt := by
  unfold Obligations.PendingEventSurvivesUntilTheHalt
  intro s t x xs hx h hec hrun hrun' hwrite hreset
  rcases step_next_cases s t h with ⟨hnil, -⟩ | ⟨y, ys, hy, hcases⟩
  · simp [hx] at hnil
  obtain ⟨rfl, rfl⟩ := List.cons.inj (hx.symm.trans hy)
  rcases hcases with ⟨i, hruns, hi⟩ | ⟨r, i, u, a, -, hu, -, rfl⟩ | ⟨m, hxm, hm⟩
  · refine exec_keeps_pending hi hec hrun hrun' ?_
    rintro v rfl
    exact hwrite v hruns.opWriteEdesr
  · exact (rivalHappens_edesrEc r u).trans (hu.edesrEc.trans hec)
  · refine (envMove_edesrEc hm ?_).trans hec
    rintro r rfl
    exact hreset r hxm

/-! ### Writing the bit and leaving Debug state (R82, R83, 43_register_access.md R93, R94) -/

/-- Settles O31: a write has one outcome, in which the bit is cleared by a 1 where it exists. -/
theorem edesrIsWriteOneToClear : Obligations.EdesrIsWriteOneToClear := by
  unfold Obligations.EdesrIsWriteOneToClear
  intro v s
  have write : exec (.opWriteEdesr v) s = .next (OpOutcome.cont (writeOneToClear v s)).conclude := rfl
  rw [write, writeOneToClear_eq]
  refine ⟨fun h8 => ?_, fun h8 => ?_⟩
  · simp only [h8, ecOfWord, Bool.true_and]
  · simp only [h8, Bool.false_and, Bool.false_eq_true, if_false]

theorem exec_opExitDebug_halted {s : State} (h : s.halted = true) :
    exec .opExitDebug s = .next (OpOutcome.cont (leaveDebugState s)).conclude := if_pos h

theorem exec_opExitDebug_running {s : State} (h : s.halted = false) :
    exec .opExitDebug s = .refused .notInDebugState := if_neg (by simp [h])

/-- Settles O33: the exit is `leaveDebugState`, with the bit and without it. -/
theorem exitFromDebugStateClearsThePendingBit : Obligations.ExitFromDebugStateClearsThePendingBit := by
  unfold Obligations.ExitFromDebugStateClearsThePendingBit
  intro s
  refine ⟨fun hh h8 => ?_, fun hh h8 => ?_, exec_opExitDebug_running⟩
  · rw [exec_opExitDebug_halted hh, leaveDebugState_eq, h8, if_pos rfl]
  · rw [exec_opExitDebug_halted hh, leaveDebugState_eq, h8, if_neg Bool.false_ne_true]

/-! ### Boundaries with `FEAT_Debugv8p8` (R80, R81) -/

theorem boundaryHook_v8p8 {s : State} (h8 : s.params.cfg.haveDebugv8p8 = true) :
    boundaryHook s = .ok (pendingAlternatives s) := if_pos h8

theorem ecHeld_eq_true {s : State} (h8 : s.params.cfg.haveDebugv8p8 = true) (hec : s.edesrEc = 1#1) :
    ecHeld s = true := by
  simp [ecHeld, h8, hec]

theorem eventWaits_iff {s : State} : Safety.eventWaits s = true ↔ ecHeld s = true ∧ haltingAllowed s = true :=
  Bool.and_eq_true_iff

theorem pendingAlternatives_eq (s : State) :
    pendingAlternatives s =
      if Safety.eventWaits s then (haltAlternatives .draw false s).addIf (asyncDue s) (.yield s)
      else only (.cont s) := rfl

theorem pendingAlternatives_of_eventWaits {s : State} (h : Safety.eventWaits s = true) :
    pendingAlternatives s =
      ⟨.halted (withEc 0#1 (caught false s)),
        .halted (withEc 1#1 (caught false s)) :: if asyncDue s then [.yield s] else []⟩ := by
  have h8 : s.params.cfg.haveDebugv8p8 = true := (Bool.and_eq_true_iff.mp (eventWaits_iff.mp h).1).1
  rw [pendingAlternatives_eq, if_pos h, haltAlternatives_draw h8, addIf_pair]

theorem pendingAlternatives_of_not_eventWaits {s : State} (h : Safety.eventWaits s = false) :
    pendingAlternatives s = only (.cont s) := by
  rw [pendingAlternatives_eq, h, if_neg Bool.false_ne_true]

/-- Where no event waits a boundary changes nothing. -/
theorem exec_opInsnBoundary_of_not_eventWaits {s : State} (h8 : s.params.cfg.haveDebugv8p8 = true)
    (h : Safety.eventWaits s = false) : exec .opInsnBoundary s = .next (OpOutcome.cont s).conclude := by
  rw [exec_opInsnBoundary_eq, boundaryHook_v8p8 h8, pendingAlternatives_of_not_eventWaits h, settleOr_only]

theorem exec_opInsnBoundary_of_eventWaits {s : State} (h8 : s.params.cfg.haveDebugv8p8 = true)
    (h : Safety.eventWaits s = true) :
    exec .opInsnBoundary s = .next (pick (.halted (withEc 0#1 (caught false s)))
      (.halted (withEc 1#1 (caught false s)) :: if asyncDue s then [.yield s] else [])
      (Config.freeChoice s.draws)).conclude := by
  rw [exec_opInsnBoundary_eq, boundaryHook_v8p8 h8, pendingAlternatives_of_eventWaits h, settleOr_ok]

/-- Settles O26: an event waits where it is held and halting is allowed, and nowhere else. -/
theorem boundaryTakesThePendingEvent : Obligations.BoundaryTakesThePendingEvent := by
  unfold Obligations.BoundaryTakesThePendingEvent
  intro s h8
  refine ⟨fun hec ha => ?_, fun _ ha => ?_, fun hec => ?_⟩
  · exact exec_opInsnBoundary_of_eventWaits h8 (eventWaits_iff.mpr ⟨ecHeld_eq_true h8 hec, ha⟩)
  · exact exec_opInsnBoundary_of_not_eventWaits h8 (by simp [Safety.eventWaits, ha])
  · exact exec_opInsnBoundary_of_not_eventWaits h8 (by simp [Safety.eventWaits, ecHeld_eq_false (.inr hec)])

/-! ### `EDECCR` is not consulted again (R80) -/

/-- The outcome with another value in `EDECCR`. -/
def OpOutcome.withEdeccr (v : Word) : OpOutcome → OpOutcome
  | .cont s => .cont (Machine.withEdeccr v s)
  | .halted s => .halted (Machine.withEdeccr v s)
  | .yield s => .yield (Machine.withEdeccr v s)

theorem conclude_withEdeccr (v : Word) (o : OpOutcome) :
    (o.withEdeccr v).conclude = withEdeccr v o.conclude := by
  cases o <;> rfl

theorem pick_map (f : OpOutcome → OpOutcome) (first : OpOutcome) (rest : List OpOutcome) (n : Nat) :
    pick (f first) (rest.map f) n = f (pick first rest n) := by
  induction rest generalizing first n with
  | nil => rfl
  | cons o os ih =>
    simp only [List.map_cons, pick]
    split
    · rfl
    · exact ih o (n - 1)

/-- The outcomes of a boundary differ in `EDECCR` alone, where the states do. -/
theorem pendingAlternatives_withEdeccr (v : Word) (s : State) :
    pendingAlternatives (withEdeccr v s) =
      ⟨(pendingAlternatives s).first.withEdeccr v, (pendingAlternatives s).rest.map (·.withEdeccr v)⟩ := by
  have waits : Safety.eventWaits (withEdeccr v s) = Safety.eventWaits s := rfl
  by_cases h : Safety.eventWaits s = true
  · rw [pendingAlternatives_of_eventWaits h, pendingAlternatives_of_eventWaits (waits.trans h), asyncDue_withEdeccr]
    cases asyncDue s <;> rfl
  · have h' := Bool.eq_false_iff.mpr h
    rw [pendingAlternatives_of_not_eventWaits h', pendingAlternatives_of_not_eventWaits (waits.trans h')]
    rfl

/-- Settles O27: the same place of the outcome set is picked, whatever `EDECCR` holds. -/
theorem pendingEventIgnoresEdeccr : Obligations.PendingEventIgnoresEdeccr := by
  unfold Obligations.PendingEventIgnoresEdeccr
  intro s t v h8 h
  rw [exec_opInsnBoundary_eq, boundaryHook_v8p8 h8, settleOr_ok] at h
  obtain rfl := Host.Outcome.next.inj h
  change exec .opInsnBoundary (withEdeccr v s) = _
  rw [exec_opInsnBoundary_eq, boundaryHook_v8p8 (s := withEdeccr v s) h8, settleOr_ok,
    pendingAlternatives_withEdeccr, withEdeccr_draws, pick_map, conclude_withEdeccr]
  rfl

/-! ### A held event comes before synchronous events (R85) -/

/-- Once an input is answered and leaves something owed, the contract is asked about the rest. -/
theorem keepsHookContract_cons {o o' : Safety.Owed} {s t : State} {x : Input} {xs : List Input}
    (hrun : runInput x s = .next t) (howed : Safety.owedAfter x s t o = some o') :
    Safety.keepsHookContract o s (x :: xs) = Safety.keepsHookContract o' t xs := by
  simp only [Safety.keepsHookContract, hrun, howed]

/-- One move keeps the contract where the environment makes it and something may be owed after it. -/
theorem keepsHookContract_move (o : Safety.Owed) (s : State) (m : EnvMove) :
    Safety.keepsHookContract o s [.env m] = (Safety.moveAllowed m s && (Safety.owedAfterMove m s o).isSome) := by
  have answers := runEnvMove_answers_iff m s
  simp only [Safety.keepsHookContract, runInput, Safety.owedAfter]
  cases hm : runEnvMove m s with
  | next t => cases Safety.owedAfterMove m s o <;> simp [answers.mpr ⟨t, hm⟩]
  | fault r => cases r
  | refused r =>
    have unanswered : Safety.moveAllowed m s = false := by
      rw [Bool.eq_false_iff, ne_eq, answers, hm]
      simp
    simp [unanswered]

@[simp] theorem isSome_owedIf (c : Bool) (o : Safety.Owed) : (Safety.owedIf c o).isSome = c := by
  cases c <;> rfl

theorem keepsHookContract_takeException (o : Safety.Owed) (s : State) (e : ExceptionEntry) :
    Safety.keepsHookContract o s [.env (.takeException e)] =
      (Safety.moveAllowed (.takeException e) s && Safety.mayTakeException e.kind s o) := by
  rw [keepsHookContract_move, Safety.owedAfterMove, isSome_owedIf]

theorem keepsHookContract_haltFor (o : Safety.Owed) (s : State) (r : HaltReason) :
    Safety.keepsHookContract o s [.env (.haltFor r)] =
      (Safety.moveAllowed (.haltFor r) s && Safety.mayHaltFor r s o) := by
  rw [keepsHookContract_move, Safety.owedAfterMove, isSome_owedIf]

/-- The move is a synchronous exception or the halt for a synchronous debug event other than a Halting Step. -/
def EnvMove.IsSynchronous (m : EnvMove) : Prop :=
  (∃ e, m = .takeException e ∧ e.kind.isAsynchronous = false) ∨ m = .haltFor .synchronousDebugEvent

/-- A PE in Debug state does not do it. -/
theorem EnvMove.IsSynchronous.not_allowed {m : EnvMove} {s : State} (hm : m.IsSynchronous) (h : s.halted = true) :
    Safety.moveAllowed m s = false := by
  rcases hm with ⟨e, rfl, -⟩ | rfl <;> simp [Safety.moveAllowed, h]

/-- It is not what a hook yields to. -/
theorem EnvMove.IsSynchronous.not_after_yield {m : EnvMove} (hm : m.IsSynchronous) (s : State) (e d : Bool) :
    Safety.keepsHookContract (.asyncDue e d) s [.env m] = false := by
  rcases hm with ⟨x, rfl, hx⟩ | rfl
  · simp [keepsHookContract_takeException, Safety.mayTakeException, hx]
  · simp [keepsHookContract_haltFor, Safety.mayHaltFor, Safety.Owed.free]

/-- Where an event waits, its turn has come: no outcome lets the PE go on. -/
theorem halts_or_yields_of_mem_pendingAlternatives {s : State} {o : OpOutcome} (h : Safety.eventWaits s = true)
    (ho : o ∈ (pendingAlternatives s).toList) : o.state.halted = true ∨ o.tag = .yield := by
  rw [pendingAlternatives_of_eventWaits h] at ho
  simp only [Alternatives.toList, List.mem_cons, List.mem_ite_nil_right, List.not_mem_nil, or_false] at ho
  rcases ho with rfl | rfl | ⟨-, rfl⟩
  · exact .inl rfl
  · exact .inl rfl
  · exact .inr rfl

theorem exec_opInsnBoundary_halts_or_yields {s : State} (h8 : s.params.cfg.haveDebugv8p8 = true)
    (h : Safety.eventWaits s = true) :
    ∃ t, exec .opInsnBoundary s = .next t ∧ (t.halted = true ∨ t.lastOutcome = .yield) := by
  rw [exec_opInsnBoundary_eq, boundaryHook_v8p8 h8, settleOr_ok]
  exact ⟨_, rfl, halts_or_yields_of_mem_pendingAlternatives h (pick_mem _ _ _)⟩

/-- After such a boundary nothing synchronous keeps the contract. -/
theorem EnvMove.IsSynchronous.not_after_boundary {m : EnvMove} {t : State} (hm : m.IsSynchronous) (exception : Bool)
    (h : t.halted = true ∨ t.lastOutcome = .yield) :
    Safety.keepsHookContract (Safety.owedAfterHook exception t .boundaryCalled) t [.env m] = false := by
  unfold Safety.owedAfterHook
  by_cases hh : t.halted = true
  · rw [keepsHookContract_move, hm.not_allowed hh, Bool.false_and]
  · rw [if_neg hh, if_pos (h.resolve_left hh)]
    exact hm.not_after_yield t _ _

/-- What a running PE owes after a boundary, where nothing was owed before. -/
theorem owedAfterOp_opInsnBoundary {s : State} (hrun : s.halted = false) (t : State) :
    Safety.owedAfterOp .opInsnBoundary s t .nothing =
      some (Safety.owedAfterHook (asyncExceptionTakeable t) t .boundaryCalled) := by
  simp [Safety.owedAfterOp, Safety.owedIf, Safety.Owed.free, hrun]

/-- While an event waits, the one synchronous exception that may come first is a Software Step exception ranked
higher. -/
theorem mayTakeException_of_eventWaits {k : ExceptionKind} {s : State} (hk : k.isAsynchronous = false)
    (h : Safety.eventWaits s = true) :
    Safety.mayTakeException k s .nothing = (k == .softwareStep && s.params.ecVsSoftwareStep == .lower) := by
  simp [Safety.mayTakeException, hk, h]

/-- A synchronous event that is no step event breaks the contract at once, and after the boundary. -/
theorem EnvMove.IsSynchronous.breaks_contract {m : EnvMove} {s : State} (hm : m.IsSynchronous)
    (hstep : ∀ e, m = .takeException e → e.kind ≠ .softwareStep) (h8 : s.params.cfg.haveDebugv8p8 = true)
    (hwaits : Safety.eventWaits s = true) :
    Safety.keepsHookContract .nothing s [.env m] = false ∧
      Safety.keepsHookContract .nothing s [.op .opInsnBoundary, .env m] = false := by
  have hrun := not_halted_of_haltingAllowed s (eventWaits_iff.mp hwaits).2
  constructor
  · rcases hm with ⟨e, rfl, he⟩ | rfl
    · simp [keepsHookContract_takeException, mayTakeException_of_eventWaits he hwaits, hstep e rfl]
    · simp [keepsHookContract_haltFor, Safety.mayHaltFor, hwaits]
  · obtain ⟨t, ht, hout⟩ := exec_opInsnBoundary_halts_or_yields h8 hwaits
    rw [keepsHookContract_cons (x := .op .opInsnBoundary) ht (owedAfterOp_opInsnBoundary hrun t)]
    exact hm.not_after_boundary _ hout

/-- A Halting Step that comes first keeps the contract exactly where it is ranked higher (60_exceptions.md R101). -/
theorem keepsHookContract_haltingStep {s : State} (hwaits : Safety.eventWaits s = true) :
    Safety.keepsHookContract .nothing s [.env (.haltFor .haltingStep)] = (s.params.ecVsHaltingStep == .lower) := by
  have hrun := not_halted_of_haltingAllowed s (eventWaits_iff.mp hwaits).2
  rw [keepsHookContract_haltFor]
  simp [Safety.moveAllowed, Safety.mayHaltFor, Safety.Owed.free, hrun, hwaits]

/-- A Software Step exception due at the boundary comes first exactly where it is ranked higher. -/
theorem rivalComesFirst_softwareStep {s : State} (h8 : s.params.cfg.haveDebugv8p8 = true)
    (hwaits : Safety.eventWaits s = true) :
    rivalComesFirst .softwareStep .opInsnBoundary s = (s.params.ecVsSoftwareStep == .lower) := by
  have due : eventDue .boundary s = true := by
    rw [eventDue, if_pos h8]
    exact hwaits
  simp only [rivalComesFirst, pointOf, due, turn, Bool.true_and]
  cases s.params.ecVsSoftwareStep <;> rfl

/-- Ranked higher, the Software Step exception contends first, and is then the one to be taken. -/
theorem keepsHookContract_softwareStep_first {s : State} {e : ExceptionEntry} (he : e.kind = .softwareStep)
    (hallowed : Safety.moveAllowed (.takeException e) s = true) (hrun : s.halted = false)
    (hfirst : rivalComesFirst .softwareStep .opInsnBoundary s = true) :
    Safety.keepsHookContract .nothing s [.contend .softwareStep .opInsnBoundary, .env (.takeException e)] = true := by
  have run : runInput (.contend .softwareStep .opInsnBoundary) s = .next (OpOutcome.yield s).conclude :=
    if_pos hfirst
  have came : rivalCameFirst .softwareStep .opInsnBoundary s = true := hfirst
  have owed : Safety.owedAfter (.contend .softwareStep .opInsnBoundary) s (OpOutcome.yield s).conclude .nothing =
      some (.exceptionDue .softwareStep) := by
    simp [Safety.owedAfter, Safety.owedAfterContend, owedAfterOp_opInsnBoundary hrun, Safety.exceptionOf,
      Safety.rivalStillDue, came]
  have allowed : Safety.moveAllowed (.takeException e) (OpOutcome.yield s).conclude = true := hallowed
  rw [keepsHookContract_cons run owed, keepsHookContract_takeException, allowed, he]
  rfl

/-- Ranked lower, the Software Step exception is lost to the event whose turn comes at the boundary. -/
theorem keepsHookContract_softwareStep_after {s : State} {e : ExceptionEntry} (he : e.kind = .softwareStep)
    (h8 : s.params.cfg.haveDebugv8p8 = true) (hwaits : Safety.eventWaits s = true)
    (hlast : rivalComesFirst .softwareStep .opInsnBoundary s = false) :
    Safety.keepsHookContract .nothing s [.contend .softwareStep .opInsnBoundary, .env (.takeException e)] = false := by
  have hrun := not_halted_of_haltingAllowed s (eventWaits_iff.mp hwaits).2
  obtain ⟨t, ht, hout⟩ := exec_opInsnBoundary_halts_or_yields h8 hwaits
  have run : runInput (.contend .softwareStep .opInsnBoundary) s = .next t := by
    have operation : contendAt .softwareStep .opInsnBoundary s = exec .opInsnBoundary s :=
      if_neg (by simp [hlast])
    exact operation.trans ht
  have came : rivalCameFirst .softwareStep .opInsnBoundary s = false := hlast
  have owed : Safety.owedAfter (.contend .softwareStep .opInsnBoundary) s t .nothing =
      some (Safety.owedAfterHook (asyncExceptionTakeable t) t .boundaryCalled) := by
    simp [Safety.owedAfter, Safety.owedAfterContend, owedAfterOp_opInsnBoundary hrun, Safety.exceptionOf,
      Safety.rivalStillDue, came]
  have synchronous : (EnvMove.takeException e).IsSynchronous := .inl ⟨e, rfl, by simp [he, ExceptionKind.isAsynchronous]⟩
  rw [keepsHookContract_cons run owed]
  exact synchronous.not_after_boundary _ hout

/-- Settles O60: a synchronous event does not come before the boundary nor after it; a step event comes before it, and
in a contention, by its rank. -/
theorem pendingEventComesBeforeSynchronousEvents : Obligations.PendingEventComesBeforeSynchronousEvents := by
  unfold Obligations.PendingEventComesBeforeSynchronousEvents
  intro s h8 hec ha
  have hwaits : Safety.eventWaits s = true := eventWaits_iff.mpr ⟨ecHeld_eq_true h8 hec, ha⟩
  refine ⟨fun m hm => ?_, keepsHookContract_haltingStep hwaits, fun e he hallowed => ⟨?_, ?_⟩⟩
  · rcases hm with ⟨e, rfl, he⟩ | rfl
    · refine EnvMove.IsSynchronous.breaks_contract (.inl ⟨e, rfl, ?_⟩) ?_ h8 hwaits
      · rcases he with he | he <;> simp [he, ExceptionKind.isAsynchronous]
      · rintro _ ⟨⟩
        rcases he with he | he <;> simp [he]
    · exact EnvMove.IsSynchronous.breaks_contract (.inr rfl) (fun _ h => by cases h) h8 hwaits
  · rw [keepsHookContract_takeException, hallowed, he, mayTakeException_of_eventWaits rfl hwaits]
    rfl
  · rw [← rivalComesFirst_softwareStep h8 hwaits]
    cases hfirst : rivalComesFirst .softwareStep .opInsnBoundary s with
    | true =>
      exact keepsHookContract_softwareStep_first he hallowed (not_halted_of_haltingAllowed s ha) hfirst
    | false => exact keepsHookContract_softwareStep_after he h8 hwaits hfirst

end Sys2Proof.Machine
end

section
/-! PROOFS. The statements of 43_register_access.md: writes of `EDECCR` and `OSECCR` (R90, R91), reads (R95), and the
two operations that do nothing at that moment: `OP_ISB` (R96) and an AArch32 change of level (R97). -/

namespace Sys2Proof.Machine

/-! ### Writes (R90, R91) -/

/-- Settles O30: the two writes are the same write of the one storage. -/
theorem writesChangeEdeccrOnly : Obligations.WritesChangeEdeccrOnly := by
  unfold Obligations.WritesChangeEdeccrOnly
  exact fun v s => ⟨exec_edeccr_write (.inl rfl) s, exec_edeccr_write (.inr rfl) s⟩

/-! ### Reads (R95) -/

/-- Whatever stands in the other bits, `EDESR.EC` stands in its place. -/
theorem ecOfWord_edesrWord (p : Params) (ec : Bit) (other : Word) :
    ecOfWord p (edesrWord p ec other) = (ec == 1#1) := by
  unfold ecOfWord edesrWord
  by_cases hec : ec = 1#1
  · simp [hec]
  · simp [hec]

theorem ecOfWord_edesrRead {s : State} (h8 : s.params.cfg.haveDebugv8p8 = true) (other : Word) :
    ecOfWord s.params (edesrRead other s) = (s.edesrEc == 1#1) := by
  rw [edesrRead, if_pos h8, ecOfWord_edesrWord]

/-- `OSECCR` is read from the storage of `EDECCR` (10_state.md R16). -/
theorem exec_edeccr_read {i : Instr} (hi : i = .opReadEdeccr ∨ i = .opReadOseccr) (s : State) :
    exec i s = .next (OpOutcome.cont (withReadData s.edeccr s)).conclude := by
  rcases hi with rfl | rfl <;> rfl

theorem exec_opReadEdesr_eq (s : State) :
    exec .opReadEdesr s =
      .next (OpOutcome.cont (withReadData (edesrRead (Config.freeEdesr s.draws) s) s)).conclude := rfl

/-- Settles O32: the word read from `EDESR` is `edesrRead`'s, which holds `EC` in its place where the bit exists. -/
theorem readsReturnTheStoredValue : Obligations.ReadsReturnTheStoredValue := by
  unfold Obligations.ReadsReturnTheStoredValue
  exact fun s => ⟨exec_edeccr_read (.inl rfl) s, exec_edeccr_read (.inr rfl) s,
    edesrRead (Config.freeEdesr s.draws) s, exec_opReadEdesr_eq s, fun h8 => ecOfWord_edesrRead h8 _⟩

/-! ### What else leaves `EDECCR` and the value read alone (R90, R91; 20_memory.md R30) -/

theorem exec_eret_access_frame {s t : State} (h : exec .eret s = .next t) :
    t.edeccr = s.edeccr ∧ t.readData = s.readData := by
  obtain ⟨r, o, hr, ho, rfl⟩ := exec_eret_next s t h
  obtain ⟨-, hedeccr, -, -, -, -, -, hread, -⟩ := exceptionReturn_frame s r hr
  obtain ⟨-, hedeccr', hread'⟩ := ho.frame
  exact ⟨hedeccr'.trans hedeccr, hread'.trans hread⟩

/-- Settles O43: the hooks and `ERET` write neither, and of the other instructions a write or a read writes one. -/
theorem edeccrChangesOnlyByItsWrites : Obligations.EdeccrChangesOnlyByItsWrites := by
  unfold Obligations.EdeccrChangesOnlyByItsWrites
  intro i s t h
  rcases exec_next_cases i s t h with ⟨_, o, ho, rfl, -⟩ | rfl | ⟨heret, hentry, hreset, hboundary, hreturn⟩
  · obtain ⟨-, hedeccr, hread⟩ := ho.frame
    exact ⟨fun _ => hedeccr, fun _ _ _ => hread⟩
  · obtain ⟨hedeccr, hread⟩ := exec_eret_access_frame h
    exact ⟨fun _ => hedeccr, fun _ _ _ => hread⟩
  · have plain := exec_plain_next i s t h
    cases i with
    | opExcEntry => exact absurd rfl hentry
    | opExcReturn f => exact absurd rfl (hreturn f)
    | opReset => exact absurd rfl hreset
    | opInsnBoundary => exact absurd rfl hboundary
    | eret => exact absurd rfl heret
    | opWriteEdeccr v => exact ⟨fun hwrite => absurd rfl (hwrite v).1, fun _ _ _ => by simp [plain]⟩
    | opWriteOseccr v => exact ⟨fun hwrite => absurd rfl (hwrite v).2, fun _ _ _ => by simp [plain]⟩
    | opReadEdeccr => exact ⟨fun _ => by simp [plain], fun hread => absurd rfl hread⟩
    | opReadOseccr => exact ⟨fun _ => by simp [plain], fun _ hread => absurd rfl hread⟩
    | opReadEdesr =>
      obtain ⟨w, rfl⟩ := plain
      exact ⟨fun _ => rfl, fun _ _ hread => absurd rfl hread⟩
    | opExitDebug => simp [plain.2]
    | isb => simp [plain.2]
    | _ => simp [plain]

/-! ### Operations with no effect, and the boundary after them (R96, R97; 41_generation.md R68, R70, R72) -/

theorem exec_opIsb_eq (s : State) : exec .opIsb s = .next (OpOutcome.cont s).conclude := rfl

theorem exec_opA32StateChange_eq (s : State) : exec .opA32StateChange s = .next (OpOutcome.cont s).conclude := rfl

/-- After an outcome that changed nothing a trapped level is as trapped as before. -/
theorem exec_opInsnBoundary_conclude_cont_trapped {s : State} (hcfg : s.params.cfg = .v8p0)
    (hallowed : haltingAllowed s = true) (hbits : hasCatchBits s.params.cfg s.level = true)
    (htrap : eBit s.edeccr s.level = true) :
    exec .opInsnBoundary (OpOutcome.cont s).conclude =
      .next (pick (.cont (OpOutcome.cont s).conclude) [.halted (caught false (OpOutcome.cont s).conclude)]
        (Config.freeChoice (OpOutcome.cont s).conclude.draws)).conclude := by
  obtain ⟨unpredictable, -⟩ := boundaryIsUnpredictableWithoutDebugv8p2 (OpOutcome.cont s).conclude hcfg
  exact unpredictable hallowed hbits htrap

theorem v8p2_of_features {c : Configuration} (h2 : c.haveDebugv8p2 = true) (h8 : c.haveDebugv8p8 = false) :
    c = .v8p2 ∨ c = .v8p2Rme := by
  revert h2 h8
  cases c <;> decide

/-- With `FEAT_Debugv8p2` a boundary generates nothing: at most it takes an event held before. -/
theorem exec_opInsnBoundary_of_none_held {s : State} (h2 : s.params.cfg.haveDebugv8p2 = true)
    (hnone : s.params.cfg.haveDebugv8p8 = false ∨ s.edesrEc = 0#1) :
    exec .opInsnBoundary s = .next (OpOutcome.cont s).conclude := by
  cases h8 : s.params.cfg.haveDebugv8p8 with
  | false => exact exec_opInsnBoundary_v8p2 (v8p2_of_features h2 h8)
  | true => exact exec_opInsnBoundary_of_not_eventWaits h8 (by simp [Safety.eventWaits, ecHeld_eq_false hnone])

/-- Settles O28: the boundary after `OP_ISB` finds the level as trapped as it was. -/
theorem isbDoesNotSettleTheUnpredictableCase : Obligations.IsbDoesNotSettleTheUnpredictableCase := by
  unfold Obligations.IsbDoesNotSettleTheUnpredictableCase
  refine fun s => ⟨exec_opIsb_eq s, fun t h hcfg hallowed hbits htrap => ?_⟩
  obtain rfl : t = (OpOutcome.cont s).conclude := exec_plain_next .opIsb s t h
  exact exec_opInsnBoundary_conclude_cont_trapped hcfg hallowed hbits htrap

/-- Settles O34: the boundary after the change is the first to judge it, in `CFG_V8P0` by `EDECCR`, in the other
configurations by the held event alone. -/
theorem levelChangeHasNoEffectAtThatMoment : Obligations.LevelChangeHasNoEffectAtThatMoment := by
  unfold Obligations.LevelChangeHasNoEffectAtThatMoment
  refine fun s => ⟨exec_opA32StateChange_eq s, fun t h => ?_⟩
  obtain rfl : t = (OpOutcome.cont s).conclude := exec_plain_next .opA32StateChange s t h
  exact ⟨exec_opInsnBoundary_conclude_cont_trapped,
    exec_opInsnBoundary_of_none_held (s := (OpOutcome.cont s).conclude)⟩

end Sys2Proof.Machine
end

section
/-! PROOFS. The statements of 60_exceptions.md: what a halt saves and when `DLR_EL0` and `DSPSR_EL0` change (R107),
exception entry (R108), hooks in Debug state (R111), the source's worked example (95_test_vectors.md V1 to V8), and the
priority against other events due at the same point (R101 to R103, R106). -/

namespace Sys2Proof.Machine

/-! ### What a halt saves (R107) -/

/-- R107, D15: in `t` the PE is in Debug state for Exception Catch, with the `PC` and `PSTATE` of `s` saved. -/
structure CaughtFrom (s t : State) : Prop where
  debugState : t.debugState = some .exceptionCatch
  dlrEl0 : t.dlrEl0 = s.pc
  dspsrEl0 : t.dspsrEl0 = s.pstate

/-- What the entry to Debug state writes beside the reason is in `t` as in `s`. -/
structure SameDebugLink (s t : State) : Prop where
  dlrEl0 : t.dlrEl0 = s.dlrEl0
  dspsrEl0 : t.dspsrEl0 = s.dspsrEl0
  fetchedAtHalt : t.fetchedAtHalt = s.fetchedAtHalt

theorem HookOutcome.caughtFrom {sets : Bool} {s : State} {o : OpOutcome} (ho : HookOutcome sets s o)
    (hrun : s.halted = false) (hhalt : o.state.halted = true) : o.tag = .halted ∧ CaughtFrom s o.state := by
  have unhalted : s.halted ≠ true := by simp [hrun]
  cases ho with
  | cont => exact absurd hhalt unhalted
  | pended _ _ _ => exact absurd hhalt unhalted
  | halted b _ => exact ⟨rfl, rfl, rfl, rfl⟩
  | drawn b v _ _ _ => exact ⟨rfl, rfl, rfl, rfl⟩
  | yield _ => exact absurd hhalt unhalted
  | yieldHeld _ _ _ => exact absurd hhalt unhalted

theorem HookOutcome.sameDebugLink {sets : Bool} {s : State} {o : OpOutcome} (ho : HookOutcome sets s o)
    (htag : o.tag ≠ .halted) : SameDebugLink s o.state := by
  cases ho with
  | cont => exact ⟨rfl, rfl, rfl⟩
  | pended _ _ _ => exact ⟨rfl, rfl, rfl⟩
  | halted b _ => exact absurd rfl htag
  | drawn b v _ _ _ => exact absurd rfl htag
  | yield _ => exact ⟨rfl, rfl, rfl⟩
  | yieldHeld _ _ _ => exact ⟨rfl, rfl, rfl⟩

/-- An instruction ends in a hook, at a state `u` that differs from the present one by at most `ERET`'s return, or it
neither halts the PE nor touches what a halt writes. -/
theorem exec_next_hook_or_sameDebugLink {i : Instr} {s t : State} (h : exec i s = .next t) :
    (∃ sets u o, HookOutcome sets u o ∧ SameDebugLink s u ∧ u.debugState = s.debugState ∧ t = o.conclude) ∨
    (SameDebugLink s t ∧ (t.halted = true → s.halted = true)) := by
  rcases exec_next_cases i s t h with ⟨_, o, ho, ht, -⟩ | rfl | ⟨heret, hentry, hreset, hboundary, hreturn⟩
  · exact .inl ⟨_, s, o, ho, ⟨rfl, rfl, rfl⟩, rfl, ht⟩
  · obtain ⟨r, o, hr, ho, ht⟩ := exec_eret_next s t h
    obtain ⟨-, -, -, hdebug, hdlr, hdspsr, hfetched, -⟩ := exceptionReturn_frame s r hr
    exact .inl ⟨_, r.state, o, ho, ⟨hdlr, hdspsr, hfetched⟩, hdebug, ht⟩
  · have plain := exec_plain_next i s t h
    refine .inr ?_
    cases i with
    | opExcEntry => exact absurd rfl hentry
    | opExcReturn f => exact absurd rfl (hreturn f)
    | opReset => exact absurd rfl hreset
    | opInsnBoundary => exact absurd rfl hboundary
    | eret => exact absurd rfl heret
    | opReadEdesr =>
      obtain ⟨w, rfl⟩ := plain
      exact ⟨⟨rfl, rfl, rfl⟩, id⟩
    | opExitDebug =>
      obtain ⟨hh, rfl⟩ := plain
      exact ⟨⟨by simp, by simp, by simp⟩, fun _ => hh⟩
    | isb =>
      obtain ⟨-, rfl⟩ := plain
      exact ⟨⟨rfl, rfl, rfl⟩, id⟩
    | _ => exact ⟨⟨by simp [plain], by simp [plain], by simp [plain]⟩, by simp [plain]⟩

/-- Settles O39: only a hook's outcome halts a running PE, and a hook leaves the `PC` and `PSTATE` it saves. -/
theorem haltSavesPcAndPstate : Obligations.HaltSavesPcAndPstate := by
  unfold Obligations.HaltSavesPcAndPstate
  intro i s t h hrun hhalt
  have listed := hook_or_eret_of_exec_halts h hrun hhalt
  rcases exec_next_hook_or_sameDebugLink h with ⟨_, u, o, ho, -, hdebug, rfl⟩ | ⟨-, unhalted⟩
  · have urun : u.halted = false := by rwa [State.halted, hdebug]
    obtain ⟨htag, caught⟩ := ho.caughtFrom urun hhalt
    obtain ⟨same, -, -⟩ := ho.frame
    refine ⟨caught.debugState, caught.dlrEl0.trans same.pc.symm, caught.dspsrEl0.trans same.pstate.symm, htag, ?_⟩
    tauto
  · simp [unhalted hhalt] at hrun

/-- Settles O40: of a hook's outcomes only the halt writes the registers. -/
theorem debugLinkChangesOnlyAtAHalt : Obligations.DebugLinkChangesOnlyAtAHalt := by
  unfold Obligations.DebugLinkChangesOnlyAtAHalt
  intro i s t h htag
  rcases exec_next_hook_or_sameDebugLink h with ⟨_, u, o, ho, before, -, rfl⟩ | ⟨same, -⟩
  · have same := ho.sameDebugLink htag
    exact ⟨same.dlrEl0.trans before.dlrEl0, same.dspsrEl0.trans before.dspsrEl0,
      same.fetchedAtHalt.trans before.fetchedAtHalt⟩
  · exact ⟨same.dlrEl0, same.dspsrEl0, same.fetchedAtHalt⟩

/-! ### Hooks in Debug state (R111) -/

/-- A hook that is not refused has one outcome in Debug state. -/
theorem settleOr_of_halted {sets : Bool} {s : State} {x : Except Refusal Alternatives} (hh : s.halted = true)
    (hrefused : ∀ r, x = .error r → RefusedForBits s r)
    (hmem : ∀ a o, x = .ok a → o ∈ a.toList → HookOutcome sets s o) :
    settleOr s x = .next (OpOutcome.cont s).conclude := by
  cases x with
  | error r =>
    obtain ⟨-, allowed, -⟩ := hrefused r rfl
    simp [haltingAllowed_of_halted s hh] at allowed
  | ok a => rw [settleOr_ok, (hmem a _ rfl (pick_mem _ _ _)).eq_cont_of_halted hh]

/-- Settles O29: halting is not allowed in Debug state, so that no hook is refused there and none has an effect. -/
theorem hooksDoNothingInDebugState : Obligations.HooksDoNothingInDebugState := by
  unfold Obligations.HooksDoNothingInDebugState
  refine fun s hh => ⟨?_, ?_, ?_, fun _ => ?_⟩
  · exact settleOr_of_halted hh (fun r => (entryHook_eq_error_iff .entry s r).mp) (mem_entryHook .entry s)
  · exact settleOr_of_halted hh (fun r => (entryHook_eq_error_iff .reset s r).mp) (mem_entryHook .reset s)
  · exact settleOr_of_halted hh (fun r hr => ((boundaryHook_eq_error_iff s r).mp hr).2) (mem_boundaryHook s)
  · exact settleOr_of_halted hh (fun r => (returnHook_eq_error_iff s r).mp) (mem_returnHook s)

/-! ### Exception entry (R108) -/

theorem elRegs_withElRegs_same {el : EL} (r : ElRegs) (s : State) (h : el ≠ 0) :
    elRegs el (withElRegs el r s) = some r := by
  revert h
  fin_cases el <;> simp [elRegs, withElRegs]

theorem elRegs_withElRegs_of_ne {el el' : EL} (r : ElRegs) (s : State) (h : el' ≠ el) :
    elRegs el' (withElRegs el r s) = elRegs el' s := by
  revert h
  fin_cases el <;> fin_cases el' <;> simp [elRegs, withElRegs]

/-- What an exception entry writes, with `vbar` the vector base of the target level. -/
def exceptionTaken (e : ExceptionEntry) (vbar : Addr) (s : State) : State :=
  { withElRegs e.target.el ⟨e.returnAddress, s.pstate, e.syndrome, e.faultAddress, vbar⟩ s with
    pc := handlerAddress e s.pstate.el vbar s.draws
    pstate := ⟨e.target.el, e.handlerRest⟩
    currentSs := e.target.ss
    draws := s.draws + 1 }

theorem runEnvMove_takeException {e : ExceptionEntry} {s : State} {old : ElRegs} (hrun : s.halted = false)
    (hold : elRegs e.target.el s = some old) (hle : s.pstate.el ≤ e.target.el) (hhas : s.params.has e.target = true) :
    runEnvMove (.takeException e) s = .next (exceptionTaken e old.vbar s) := by
  simp [runEnvMove, envMove, takeException, hold, hrun, hle, hhas, exceptionTaken]

theorem elRegs_exceptionTaken_target {e : ExceptionEntry} (vbar : Addr) (s : State) (h : e.target.el ≠ 0) :
    elRegs e.target.el (exceptionTaken e vbar s) =
      some ⟨e.returnAddress, s.pstate, e.syndrome, e.faultAddress, vbar⟩ :=
  elRegs_withElRegs_same _ s h

theorem elRegs_exceptionTaken_of_ne {e : ExceptionEntry} {el : EL} (vbar : Addr) (s : State) (h : el ≠ e.target.el) :
    elRegs el (exceptionTaken e vbar s) = elRegs el s :=
  elRegs_withElRegs_of_ne _ s h

/-- The component, Debug state and the environment's answers are no exception registers. -/
theorem withElRegs_frame (el : EL) (r : ElRegs) (s : State) :
    (withElRegs el r s).edeccr = s.edeccr ∧ (withElRegs el r s).debugState = s.debugState ∧
      (withElRegs el r s).dlrEl0 = s.dlrEl0 ∧ (withElRegs el r s).dspsrEl0 = s.dspsrEl0 ∧
      (withElRegs el r s).env = s.env ∧ (withElRegs el r s).inbox = s.inbox := by
  unfold withElRegs
  split <;> exact ⟨rfl, rfl, rfl, rfl, rfl, rfl⟩

theorem vectorAddress_of_fits {vbar : Addr} {offset : Nat} (n : Nat) (h : vbar.toNat + offset < 2 ^ 64) :
    vectorAddress vbar offset n = vbar + BitVec.ofNat 64 offset := by
  rw [vectorAddress, if_pos h, BitVec.ofNat_add, BitVec.ofNat_toNat, BitVec.setWidth_eq]

/-- The one offset the source gives: `0x400`, the synchronous vector of a lower level using AArch64. -/
theorem handlerAddress_lowerA64 {e : ExceptionEntry} {sp : StackPointer} {source : EL} {vbar : Addr} (n : Nat)
    (hhandler : e.handler = .aarch64 .aarch64 sp) (hlower : source < e.target.el) (hkind : e.kind = .synchronous)
    (hfits : vbar.toNat + 0x400 < 2 ^ 64) : handlerAddress e source vbar n = vbar + 0x400#64 := by
  have offset : vectorOffset (vectorGroup .aarch64 sp source e.target.el) e.kind.vector = 0x400 := by
    simp only [vectorGroup, if_pos hlower, hkind]
    rfl
  simp only [handlerAddress, hhandler, offset]
  exact vectorAddress_of_fits n hfits

theorem handlerAddress_aarch32 {e : ExceptionEntry} {pc : Addr} (hhandler : e.handler = .aarch32 pc) (source : EL)
    (vbar : Addr) (n : Nat) : handlerAddress e source vbar n = pc := by
  simp only [handlerAddress, hhandler]

/-- Settles O48: the entry is `exceptionTaken`, whose fields are read off. -/
theorem exceptionEntryWritesTheTargetsRegisters : Obligations.ExceptionEntryWritesTheTargetsRegisters := by
  unfold Obligations.ExceptionEntryWritesTheTargetsRegisters
  intro e s old hrun hold hle hhas
  have target_ne : e.target.el ≠ 0 := fun h0 => by simp [h0, elRegs] at hold
  obtain ⟨hedeccr, hdebug, hdlr, hdspsr, henv, hinbox⟩ :=
    withElRegs_frame e.target.el ⟨e.returnAddress, s.pstate, e.syndrome, e.faultAddress, old.vbar⟩ s
  refine ⟨exceptionTaken e old.vbar s, runEnvMove_takeException hrun hold hle hhas,
    elRegs_exceptionTaken_target _ s target_ne, fun el => elRegs_exceptionTaken_of_ne _ s, rfl, rfl,
    fun sp hhandler hlower hkind hfits => handlerAddress_lowerA64 _ hhandler hlower hkind hfits,
    fun pc hhandler => handlerAddress_aarch32 hhandler _ _ _,
    withElRegs_params _ _ _, hedeccr, withElRegs_edesrEc _ _ _, hdebug, hdlr, hdspsr, henv, hinbox⟩

/-! ### The worked example (95_test_vectors.md V1 to V8) -/

theorem core_run_succ {s t : State} (n : Nat) (h : step s = .next t) :
    Sys2Proof.core.run (n + 1) s = Sys2Proof.core.run n t := by
  have first : Sys2Proof.core.step s = .next t := h
  simp only [Host.Core.run, first]

/-- Every member of `Halt`'s outcome set saves `PC` and `PSTATE`. -/
theorem caughtFrom_of_mem_haltAlternatives {ec : EcOnHalt} {b : Bool} {s : State} {o : OpOutcome}
    (h : o ∈ (haltAlternatives ec b s).toList) : CaughtFrom s o.conclude := by
  rcases mem_haltAlternatives ec b s o h with rfl | ⟨-, -, v, rfl⟩
  · exact ⟨rfl, rfl, rfl⟩
  · exact ⟨rfl, rfl, rfl⟩

theorem caughtFrom_of_mem_entryAlternatives {b : Bool} {s : State} {o : OpOutcome} (hdue : asyncDue s = false)
    (h : o ∈ (entryAlternatives b s).toList) : CaughtFrom s o.conclude := by
  unfold entryAlternatives at h
  rw [asyncDue_withEc, hdue] at h
  split_ifs at h
  · obtain ⟨hdebug, hdlr, hdspsr⟩ := caughtFrom_of_mem_haltAlternatives (s := withEc 1#1 s) h
    exact ⟨hdebug, hdlr, hdspsr⟩
  · exact caughtFrom_of_mem_haltAlternatives h
  · exact caughtFrom_of_mem_haltAlternatives h

/-- The switch of 90_conflicts.md C4 only takes an exception away. -/
theorem returnMayYield_eq_false {s : State} (h : asyncDue s = false) : returnMayYield s = false := by
  obtain ⟨hexception, hevent⟩ := Bool.or_eq_false_iff.mp h
  simp [returnMayYield, returnMayYieldToException, hexception, hevent]

theorem caughtFrom_of_mem_returnAlternatives {s : State} {o : OpOutcome} (hdue : asyncDue s = false)
    (h : o ∈ (returnAlternatives s).toList) : CaughtFrom s o.conclude := by
  rw [returnAlternatives, returnMayYield_eq_false hdue] at h
  exact caughtFrom_of_mem_haltAlternatives h

/-- The setting of the source's example: the anchor value in `EDECCR` (10_state.md R13), a running PE, and at Non-secure
EL1 halting allowed and nothing asynchronous due. -/
structure WorkedExample (s : State) : Prop where
  edeccr : s.edeccr = 0x0020#32
  running : s.halted = false
  haltingAllowed : s.env.haltingAllowedAt.contains ⟨.nonSecure, 1⟩ = true
  noException : s.env.asyncExceptionAt.contains ⟨.nonSecure, 1⟩ = false
  noDebugEvent : s.env.asyncDebugEventPending = false

theorem WorkedExample.congr {s u : State} (h : WorkedExample s) (hedeccr : u.edeccr = s.edeccr)
    (hdebug : u.debugState = s.debugState) (henv : u.env = s.env) : WorkedExample u :=
  ⟨hedeccr.trans h.edeccr, (congrArg Option.isSome hdebug).trans h.running, henv ▸ h.haltingAllowed,
    henv ▸ h.noException, henv ▸ h.noDebugEvent⟩

section
variable {s : State} (h : WorkedExample s) (hlevel : s.level = ⟨.nonSecure, 1⟩)
include h hlevel

theorem WorkedExample.generated {k : EntryKind} (hk : k ≠ .reset) : s.Generated k := by
  refine ⟨?_, ?_⟩
  · rw [Machine.haltingAllowed, h.running, hlevel, h.haltingAllowed]
    rfl
  · rw [h.edeccr, anchorValueEnablesNonSecureEl1Only s.params s.level k hk]
    exact hlevel

theorem WorkedExample.asyncDue_eq_false : asyncDue s = false := by
  rw [asyncDue, asyncExceptionTakeable, asyncDebugEventPending, hlevel, h.noException, h.noDebugEvent]
  rfl

/-- With nothing asynchronous due a generated event halts the PE at once, in every configuration. -/
theorem exec_opExcEntry_of_workedExample : ∃ t, exec .opExcEntry s = .next t ∧ CaughtFrom s t := by
  change ∃ t, settleOr s (entryHook .entry s) = .next t ∧ CaughtFrom s t
  rw [entryHook_of_generated (h.generated hlevel (by decide)), settleOr_ok]
  exact ⟨_, rfl, caughtFrom_of_mem_entryAlternatives (h.asyncDue_eq_false hlevel) (pick_mem _ _ _)⟩

theorem exec_opExcReturn_of_workedExample (illegal : Bool) :
    ∃ t, exec (.opExcReturn illegal) s = .next t ∧ CaughtFrom s t := by
  rw [exec_opExcReturn_of_generated (h.generated hlevel (by decide))]
  exact ⟨_, rfl, caughtFrom_of_mem_returnAlternatives (h.asyncDue_eq_false hlevel) (pick_mem _ _ _)⟩

end

/-- The anchor value catches nothing at another pair that has bits. -/
theorem catchEnabled_anchor_eq_false {p : Params} {lv : Level} {k : EntryKind} (hk : k ≠ .reset)
    (hlevel : lv ≠ ⟨.nonSecure, 1⟩) (hbits : hasCatchBits p.cfg lv = true) :
    catchEnabled p 0x0020#32 lv k = some false := by
  have uncaught := mt (anchorValueEnablesNonSecureEl1Only p lv k hk).mp hlevel
  rw [catchEnabled_of_hasCatchBits hbits] at uncaught ⊢
  simpa using uncaught

/-- V1: the exception is taken, and the hook halts the PE at its vector. -/
theorem run_exception_to_nonSecure_el1 {s : State} {e : ExceptionEntry} {sp : StackPointer} (h : WorkedExample s)
    (hinbox : s.inbox = [.env (.takeException e), .op .opExcEntry]) (hlevel : s.level = ⟨.nonSecure, 0⟩)
    (htarget : e.target = ⟨.nonSecure, 1⟩) (hhas : s.params.has ⟨.nonSecure, 1⟩ = true)
    (hhandler : e.handler = .aarch64 .aarch64 sp) (hkind : e.kind = .synchronous)
    (hfits : s.el1.vbar.toNat + 0x400 < 2 ^ 64) :
    ∃ t : State, Sys2Proof.core.run 2 s = .next t ∧ t.debugState = some .exceptionCatch ∧
      t.dlrEl0 = s.el1.vbar + 0x400#64 ∧ t.dspsrEl0 = ⟨1, e.handlerRest⟩ ∧
      t.el1 = ⟨e.returnAddress, s.pstate, e.syndrome, e.faultAddress, s.el1.vbar⟩ ∧ t.edeccr = s.edeccr := by
  have source_el : s.pstate.el = 0 := congrArg Level.el hlevel
  have target_el : e.target.el = 1 := congrArg Level.el htarget
  have lower : s.pstate.el < e.target.el := by
    rw [source_el, target_el]
    decide
  obtain ⟨u, hu, uregs, -, upstate, ulevel, upc, -, -, uedeccr, -, udebug, -, -, uenv, uinbox⟩ :=
    exceptionEntryWritesTheTargetsRegisters e (withInbox [.op .opExcEntry] s) s.el1 h.running
      (by rw [target_el]; rfl) lower.le (by rwa [htarget])
  have example_u : WorkedExample (withInbox [] u) := h.congr uedeccr udebug uenv
  obtain ⟨t, ht, caught⟩ := exec_opExcEntry_of_workedExample example_u (ulevel.trans htarget)
  have first : step s = .next u := (step_of_inbox_cons hinbox).trans hu
  have second : step u = .next t := (step_of_inbox_cons uinbox).trans ht
  have same : (withInbox [] u).SameEnvironment t := exec_sameEnvironment (by decide) (by decide) ht
  have uel1 : u.el1 = ⟨e.returnAddress, s.pstate, e.syndrome, e.faultAddress, s.el1.vbar⟩ := by
    rw [target_el] at uregs
    exact Option.some.inj uregs
  obtain ⟨tedeccr, -⟩ := edeccrChangesOnlyByItsWrites _ _ t ht
  refine ⟨t, ?_, caught.debugState, caught.dlrEl0.trans (upc sp hhandler lower hkind hfits),
    caught.dspsrEl0.trans (upstate.trans (by rw [target_el])), same.el1.trans uel1,
    (tedeccr (by simp)).trans uedeccr⟩
  rw [core_run_succ 1 first, core_run_succ 0 second]
  rfl

/-- V2, V3: the return is performed, and the hook halts the PE at the return address. -/
theorem exec_eret_to_nonSecure_el1 {s : State} {r : ElRegs} (h : WorkedExample s)
    (hregs : elRegs s.pstate.el s = some r) (hlegal : illegalNow s = false) (hel : r.spsr.el = 1)
    (hss : s.env.eret.ss = .nonSecure) :
    ∃ t : State, exec .eret s = .next t ∧ t.debugState = some .exceptionCatch ∧ t.level = ⟨.nonSecure, 1⟩ ∧
      t.dlrEl0 = r.elr ∧ t.dspsrEl0 = r.spsr := by
  have asked := returnState_of_elRegs hregs
  have level : (legalReturn s).level = ⟨.nonSecure, 1⟩ := by
    rw [State.level, legalReturn_currentSs, legalReturn_pstate, asked, hss, hel]
  have returned : WorkedExample (legalReturn s) := h.congr rfl rfl rfl
  obtain ⟨t, ht, caught⟩ := exec_opExcReturn_of_workedExample returned level false
  obtain ⟨same, -, -⟩ := exec_opExcReturn_frame ht
  refine ⟨t, (exec_eret_of_legal h.running hlegal).trans ht, caught.debugState, ?_, ?_, ?_⟩
  · rw [State.level, same.currentSs, same.pstate]
    exact level
  · rw [caught.dlrEl0, legalReturn_pc, asked]
  · rw [caught.dspsrEl0, legalReturn_pstate, asked]

/-- Settles O49: V1 as two steps of the machine, V2 and V3 as `ERET`, V4 to V8 as events that are not generated. -/
theorem exceptionToNonSecureEl1IsCaughtAtItsVector : Obligations.ExceptionToNonSecureEl1IsCaughtAtItsVector := by
  unfold Obligations.ExceptionToNonSecureEl1IsCaughtAtItsVector
  refine ⟨?_, ?_, ?_⟩
  · rintro s e hinbox hedeccr hrun hlevel htarget hhas ⟨sp, hhandler⟩ hkind hfits hallowed hexception hevent
    have setting : WorkedExample s := ⟨hedeccr, hrun, hallowed, hexception, hevent⟩
    exact run_exception_to_nonSecure_el1 setting hinbox hlevel htarget hhas hhandler hkind hfits
  · intro s r hedeccr hrun hregs _ hlegal hel hss hallowed hexception hevent
    have setting : WorkedExample s := ⟨hedeccr, hrun, hallowed, hexception, hevent⟩
    exact exec_eret_to_nonSecure_el1 setting hregs hlegal hel hss
  · intro s hedeccr hlevel hbits
    have ignored {k : EntryKind} (hk : k ≠ .reset) : catchEnabled s.params s.edeccr s.level k = some false := by
      rw [hedeccr]
      exact catchEnabled_anchor_eq_false hk hlevel hbits
    obtain ⟨entry, -, -⟩ := hooksContinueWhereNothingIsGenerated .entry s (.inl (ignored (by decide)))
    obtain ⟨-, -, ret⟩ := hooksContinueWhereNothingIsGenerated .ret s (.inl (ignored (by decide)))
    exact ⟨entry rfl, ret rfl⟩

/-! ### Two events due at one point (R101 to R103, R106) -/

section
variable {r : Rival} {i : Instr} {a : Point} {s : State}

/-- `ERET` is no hook. -/
theorem contend_of_pointOf (hp : pointOf i = some a) : contend r i s = contendAt r i s := by
  refine if_neg ?_
  rintro rfl
  cases hp

theorem contend_of_not_rivalComesFirst (hp : pointOf i = some a) (h : rivalComesFirst r i s = false) :
    contend r i s = exec i s := by
  rw [contend_of_pointOf hp, contendAt, h, if_neg Bool.false_ne_true]

theorem contend_of_catchFirst (hp : pointOf i = some a) (ht : turn s.params a r = .catchFirst) :
    contend r i s = exec i s :=
  contend_of_not_rivalComesFirst hp (by simp [rivalComesFirst, hp, ht])

theorem contend_of_rivalFirst (hp : pointOf i = some a) (hd : eventDue a s = true)
    (ht : turn s.params a r = .rivalFirst) :
    contend r i s = .next (OpOutcome.yield (rivalHappens r s)).conclude := by
  have first : rivalComesFirst r i s = true := by simp [rivalComesFirst, hp, hd, ht]
  rw [contend_of_pointOf hp, contendAt, first, if_pos rfl, rivalFirst]

/-- Where the spec fixes no order the free turn decides. -/
theorem contend_of_either (hp : pointOf i = some a) (hd : eventDue a s = true) (ht : turn s.params a r = .either) :
    contend r i s =
      if Config.freeTurn s.draws then .next (OpOutcome.yield (rivalHappens r s)).conclude else exec i s := by
  have first : rivalComesFirst r i s = Config.freeTurn s.draws := by simp [rivalComesFirst, hp, hd, ht]
  rw [contend_of_pointOf hp, contendAt, first, rivalFirst]

/-- With no Exception Catch event due there is nothing to order. -/
theorem contend_of_not_eventDue (hp : pointOf i = some a) (hd : eventDue a s = false) : contend r i s = exec i s :=
  contend_of_not_rivalComesFirst hp (by simp [rivalComesFirst, hp, hd])

end

/-- An event that contends with a legal `ERET` contends with the hook of its return. -/
theorem contend_eret_of_legal (r : Rival) {s : State} (hrun : s.halted = false) (hlegal : illegalNow s = false) :
    contend r .eret s = contend r (.opExcReturn false) (legalReturn s) := by
  rw [contend_of_pointOf (i := .opExcReturn false) rfl]
  simp [contend, contendEret, exceptionReturn, hrun, hlegal]

theorem contend_eret_of_illegal (r : Rival) {s : State} (hrun : s.halted = false) (hillegal : illegalNow s = true) :
    contend r .eret s = contend r (.opExcReturn true) (illegalReturn s) := by
  rw [contend_of_pointOf (i := .opExcReturn true) rfl]
  simp [contend, contendEret, exceptionReturn, hrun, hillegal]

/-- Settles O51: each rival's turn is read off the table, and decides. -/
theorem priorityAgainstOtherEvents : Obligations.PriorityAgainstOtherEvents := by
  unfold Obligations.PriorityAgainstOtherEvents
  refine ⟨fun i a s hp hd => ⟨?_, fun hrank => ?_, fun hrank => ?_, fun hrank => ?_, fun hrank => ?_, ?_, ?_,
    fun ha => ?_, fun ha => ?_⟩, fun r s hrun => ⟨contend_eret_of_legal r hrun, contend_eret_of_illegal r hrun⟩⟩
  · exact contend_of_rivalFirst hp hd rfl
  · exact contend_of_rivalFirst hp hd (congrArg turnOfRank hrank)
  · exact contend_of_catchFirst hp (congrArg turnOfRank hrank)
  · exact contend_of_rivalFirst hp hd (congrArg turnOfRank hrank)
  · exact contend_of_catchFirst hp (congrArg turnOfRank hrank)
  · exact contend_of_catchFirst hp rfl
  · exact contend_of_catchFirst hp rfl
  · exact contend_of_either hp hd (if_pos ha)
  · exact contend_of_catchFirst hp (if_neg ha)

/-! ### No event due (R60, R68, R80) -/

theorem isGenerated_of_commonCheck {k : EntryKind} {s : State} (h : commonCheck k s = .ok true) :
    isGenerated k s = true := by
  rw [isGenerated, h]

theorem debugState_of_mem_notGenerated {k : EntryKind} {s : State} {o : OpOutcome}
    (h : o ∈ (notGenerated k s).toList) : o.state.debugState = s.debugState := by
  rcases (mem_addIf _ _ _ _).mp h with h | ⟨-, rfl⟩
  · obtain rfl : o = .cont s := by simpa using h
    rfl
  · rfl

theorem entryHook_of_not_isGenerated {k : EntryKind} {s : State} {a : Alternatives} (hd : isGenerated k s = false)
    (h : entryHook k s = .ok a) : a = notGenerated k s := by
  unfold entryHook at h
  split at h
  · cases h
  · rename_i hc
    simp [isGenerated_of_commonCheck hc] at hd
  · exact (Except.ok.inj h).symm

theorem returnHook_of_not_isGenerated {s : State} {a : Alternatives} (hd : isGenerated .ret s = false)
    (h : returnHook s = .ok a) : a = notGenerated .ret s := by
  unfold returnHook at h
  split at h
  · cases h
  · rename_i hc
    simp [isGenerated_of_commonCheck hc] at hd
  · exact (Except.ok.inj h).symm

/-- A boundary halts in `CFG_V8P0` only at a trapped level, and with `FEAT_Debugv8p8` only for a held event. -/
theorem boundaryHook_of_not_eventDue {s : State} {a : Alternatives} (hd : eventDue .boundary s = false)
    (h : boundaryHook s = .ok a) : a = only (.cont s) := by
  unfold boundaryHook at h
  unfold eventDue at hd
  split_ifs at h hd with h8 h2
  · rw [pendingAlternatives_of_not_eventWaits hd] at h
    exact (Except.ok.inj h).symm
  · exact (Except.ok.inj h).symm
  · unfold unpredictableAlternatives at h
    split_ifs at h with ha hb he
    · simp [ha, hb, he] at hd
    · exact (Except.ok.inj h).symm
    · exact (Except.ok.inj h).symm

/-- Where no event is due at a hook's point the hook leaves Debug state as it is. -/
theorem exec_debugState_of_not_eventDue {i : Instr} {a : Point} {s t : State} (hp : pointOf i = some a)
    (hd : eventDue a s = false) (h : exec i s = .next t) : t.debugState = s.debugState := by
  cases i with
  | opExcEntry | opReset =>
    cases hp
    obtain ⟨a, ha, o, ho, rfl⟩ := settleOr_next _ _ _ h
    exact debugState_of_mem_notGenerated (entryHook_of_not_isGenerated hd ha ▸ ho)
  | opExcReturn f =>
    cases hp
    obtain ⟨a, ha, o, ho, rfl⟩ := settleOr_next _ _ _ h
    exact debugState_of_mem_notGenerated (returnHook_of_not_isGenerated hd ha ▸ ho)
  | opInsnBoundary =>
    cases hp
    obtain ⟨a, ha, o, ho, rfl⟩ := settleOr_next _ _ _ h
    rw [boundaryHook_of_not_eventDue hd ha, toList_only, List.mem_singleton] at ho
    rw [ho]
    rfl
  | _ => cases hp

/-- Settles O52: with no event due the contention is the hook alone, none of whose outcomes halts the PE. -/
theorem nothingContendsWhereNoEventIsDue : Obligations.NothingContendsWhereNoEventIsDue := by
  unfold Obligations.NothingContendsWhereNoEventIsDue
  exact fun _ _ _ _ hp hd => ⟨contend_of_not_eventDue hp hd, fun _ => exec_debugState_of_not_eventDue hp hd⟩

end Sys2Proof.Machine
end

section
/-! PROOFS. The statement of 70_reset_and_hazards.md: what a reset entry leaves in the state (R121; 10_state.md R26). -/

namespace Sys2Proof.Machine

/-! ### What a reset entry writes: parameters, values the environment supplies, and `EDECCR` where it is preserved -/

@[simp] theorem resetEntry_params (r : ResetEntry) (s : State) : (resetEntry r s).params = s.params := rfl
@[simp] theorem resetEntry_level (r : ResetEntry) (s : State) : (resetEntry r s).level = s.params.resetLevel := rfl
@[simp] theorem resetEntry_halted (r : ResetEntry) (s : State) : (resetEntry r s).halted = false := rfl
@[simp] theorem resetEntry_pc (r : ResetEntry) (s : State) : (resetEntry r s).pc = r.pc := rfl
@[simp] theorem resetEntry_edeccr (r : ResetEntry) (s : State) : (resetEntry r s).edeccr =
    if s.params.resetPreservesEdeccr then s.edeccr else s.params.edeccrReset := rfl
@[simp] theorem resetEntry_edesrEc (r : ResetEntry) (s : State) : (resetEntry r s).edesrEc =
    if s.params.cfg.haveDebugv8p8 then s.params.edesrEcReset else s.edesrEc := rfl

/-- A reset is never refused: it is processed in Debug state too. -/
theorem runEnvMove_reset (r : ResetEntry) (s : State) : runEnvMove (.reset r) s = .next (resetEntry r s) := rfl

/-- Settles O50, field by field; `EDECCR` splits on whether the implementation preserves it, `EDESR.EC` takes its
parameter where the bit exists. -/
theorem resetEntryUsesTheParameters : Obligations.ResetEntryUsesTheParameters := by
  unfold Obligations.ResetEntryUsesTheParameters
  intro r s
  refine ⟨resetEntry r s, runEnvMove_reset r s, fun preserved => ?_, fun lost => ?_, fun h8 => ?_,
    resetEntry_level r s, resetEntry_halted r s, resetEntry_pc r s, resetEntry_params r s⟩
  · rw [resetEntry_edeccr, if_pos preserved]
  · rw [resetEntry_edeccr, lost, if_neg Bool.false_ne_true]
  · rw [resetEntry_edesrEc, if_pos h8]

end Sys2Proof.Machine
end

section
/-! PROOFS. The statement of 90_conflicts.md C4: what may come before an event generated on an exception return with
the assumed switch on (D12). -/

namespace Sys2Proof.Machine

/-- With the switch of 90_conflicts.md C4 on, in `CFG_V8P2*` no asynchronous exception may come before a return's
event. -/
theorem returnMayYieldToException_eq_false {s : State} (hswitch : s.params.returnEcBeforeAsyncV8p2 = true)
    (h2 : s.params.cfg.haveDebugv8p2 = true) (h8 : s.params.cfg.haveDebugv8p8 = false) :
    returnMayYieldToException s = false := by
  simp [returnMayYieldToException, hswitch, h2, h8]

/-- Settles O18: no event is held in `CFG_V8P2*`, and the switch leaves the return's event only the asynchronous debug
event to yield to. -/
theorem returnBeforeAsynchronousExceptionsWithSwitch : Obligations.ReturnBeforeAsynchronousExceptionsWithSwitch := by
  unfold Obligations.ReturnBeforeAsynchronousExceptionsWithSwitch
  intro illegal s hswitch hcfg hg
  obtain ⟨h2, h8⟩ := features_v8p2 hcfg
  have yields : returnMayYield s = asyncDebugEventPending s := by
    rw [returnMayYield, returnMayYieldToException_eq_false hswitch h2 h8, Bool.false_or]
  rw [exec_opExcReturn_of_generated hg, returnAlternatives_of_not_ecHeld (ecHeld_eq_false (.inl h8)), yields]

end Sys2Proof.Machine
end
